-- ==== Sys2Proof/Word.lean ====
section
/-!
DEFINITION. The word types of the CRC polynomial engine (00_scope.md R7, R10): every value is an unsigned
bit vector, bits numbered from 0 at the least significant end.
-/
namespace Sys2Proof

/-- A 32-bit command word, or a register of the window (R7, R71). -/
abbrev Word := BitVec 32

/-- The 16-bit storage of R, T, RESULT and the value fields of a configuration (R7, decision D4). -/
abbrev Half := BitVec 16

/-- A message byte, or the mixing byte (R74, R103). -/
abbrev Byte := BitVec 8

/-- The length field of CALC: MAX_CALC_LEN is 2^28 - 1 (R7, R77). -/
abbrev Len := BitVec 28

end Sys2Proof
end

