-- ==== Sys2Proof/Syntax.lean ====
section
/-!
DEFINITION. The commands of the engine: one constructor per row of spec/opcode_table.json (30_encoding.md
R72, R79). A constructor holds the operand fields of its format; reserved fields are not operands.
-/
namespace Sys2Proof

/-- The CRC width W, exactly 8 or 16 (00_scope.md R7, R9). WSEL = 0 is `w8`, WSEL = 1 is `w16` (R76). -/
inductive Width where
  | w8
  | w16
  deriving DecidableEq, Repr

/-- W as a number of bits. -/
def Width.bits : Width → Nat
  | .w8 => 8
  | .w16 => 16

/-- The operand fields of an accepted CONFIG first word w0 (R76): w0[18], w0[17], w0[16], w0[15:0]. The other
13 bits of w0 are fixed once it is accepted: opcode 0x1 and nine zero bits (R81, R131). -/
structure ConfigWord where
  refout : Bool
  refin : Bool
  width : Width
  poly : Half
  deriving DecidableEq, Repr

/-- A command (R79). CONFIG holds the fields of both of its words (format C). CALC holds LEN (format L): its
payload words are message data, taken by the running command one by one and never decoded (R83, R143). -/
inductive Instr where
  | config (w0 : ConfigWord) (init xorout : Half)
  | init
  | pushbit (data : Byte)
  | wrbyte (data : Byte)
  | finish
  | verify
  | rdreg
  | ldreg (value : Half)
  | calculate (len : Len)
  deriving DecidableEq, Repr

/-- The nine defined opcodes (R79). -/
inductive Opcode where
  | config
  | init
  | pushbit
  | wrbyte
  | finish
  | verify
  | rdreg
  | ldreg
  | calculate
  deriving DecidableEq, Repr

/-- The opcode of a command. -/
def Instr.opcode : Instr → Opcode
  | .config _ _ _ => .config
  | .init => .init
  | .pushbit _ => .pushbit
  | .wrbyte _ => .wrbyte
  | .finish => .finish
  | .verify => .verify
  | .rdreg => .rdreg
  | .ldreg _ => .ldreg
  | .calculate _ => .calculate

/-- How many CMD words a command takes (R83): 2 for CONFIG, 1 + ceil(LEN/4) for CALC, 1 for every other. -/
def Instr.wordCount : Instr → Nat
  | .config _ _ _ => 2
  | .calculate len => 1 + (len.toNat + 3) / 4
  | .init | .pushbit _ | .wrbyte _ | .finish | .verify | .rdreg | .ldreg _ => 1

end Sys2Proof
end

