-- ==== Sys2Proof/Machine/Operands.lean ====
section
/-!
DEFINITION. Operand forms (30_encoding.md R72 to R78): the fields of a command word, and the range check of a
16-bit value field against the width. Every field is unsigned and zero-extended (R78).
-/
namespace Sys2Proof

/-- `OP = w[31:28]` (R71). -/
def opField (w : Word) : BitVec 4 := w.extractLsb' 28 4

/-- `DATA = w[7:0]` of format D (R74). -/
def dataField (w : Word) : Byte := w.extractLsb' 0 8

/-- `VALUE = w[15:0]` of format V (R75). -/
def valueField (w : Word) : Half := w.extractLsb' 0 16

/-- `LEN = w[27:0]` of format L (R77). -/
def lenField (w : Word) : Len := w.extractLsb' 0 28

/-- A field of n bits placed in a 32-bit word with its least significant bit at bit `lo` (R10, R72); the word is the
`|||` of its fields. -/
def place {n : Nat} (lo : Nat) (v : BitVec n) : Word := v.setWidth 32 <<< lo

/-- WSEL as a width (R76). -/
def Width.ofWsel (wsel : Bool) : Width := if wsel then .w16 else .w8

/-- The WSEL bit of a width (R76, 10_state.md R23). -/
def Width.wsel : Width → Bool
  | .w8 => false
  | .w16 => true

/-- The operand fields of a CONFIG first word (R76). -/
def configFields (w : Word) : ConfigWord :=
  { refout := w.getLsbD 18, refin := w.getLsbD 17, width := Width.ofWsel (w.getLsbD 16), poly := w.extractLsb' 0 16 }

/-- `INIT = w1[31:16]` of CONFIG's second word (R76). -/
def initField (w1 : Word) : Half := w1.extractLsb' 16 16

/-- `XOROUT = w1[15:0]` of CONFIG's second word (R76). -/
def xoroutField (w1 : Word) : Half := w1.extractLsb' 0 16

/-- Whether the reserved field of a first word with this opcode is all zero (R73 to R77, R81). -/
def reservedZero : Opcode → Word → Bool
  | .config, w => w.extractLsb' 19 9 == 0#9
  | .pushbit, w | .wrbyte, w => w.extractLsb' 8 20 == 0#20
  | .ldreg, w => w.extractLsb' 16 12 == 0#12
  | .calculate, _ => true
  | .init, w | .finish, w | .verify, w | .rdreg, w => w.extractLsb' 0 28 == 0#28

/-- Whether a 16-bit value field holds a W-bit value: for W = 8 its bits [15:8] are zero (R75, R76, R132). -/
def Width.fits (wd : Width) (v : Half) : Bool :=
  match wd with
  | .w8 => v.extractLsb' 8 8 == 0#8
  | .w16 => true

/-- Payload byte k of a word is `w[8k+7 : 8k]` (R77, 42_oneshot.md R142). -/
def payloadByte (w : Word) (k : Nat) : Byte := w.extractLsb' (8 * k) 8

/-- The first `k` payload bytes of a word, in the order they are folded (R142, R143). -/
def payloadBytes (w : Word) (k : Nat) : List Byte := (List.range k).map (payloadByte w)

end Sys2Proof
end

