-- ==== Sys2Proof/Machine/State.lean ====
section
/-!
DEFINITION. The state of one engine instance (10_state.md R21 to R37), the host's accesses it is given, and the
reasons a step can stop.
-/
namespace Sys2Proof.Machine

/-- A configuration CFG (10_state.md R23, 00_scope.md R9). The value fields are W bits wide, held in 16 with the
high byte zero when W = 8 (decision D4, R132). -/
structure Cfg where
  width : Width
  poly : Half
  init : Half
  xorout : Half
  refin : Bool
  refout : Bool
  deriving DecidableEq, Repr

/-- The session state S (R24) with what the spec says exists in it: no CFG before the first CONFIG (R23), and R
only while ACTIVE (R26). CFG and R are absent where the spec says they hold no value (70_reset R231). -/
inductive Session where
  | unconfigured
  | active (cfg : Cfg) (r : Half)
  | finished (cfg : Cfg)
  deriving DecidableEq, Repr

/-- The command assembly state PEND (R30). `cfgw1 w0` holds the fields of the accepted CONFIG first word w0. In
`calcData rem t len`, `rem` bytes of `len` are still to come and `t` is the transient register T (R31). -/
inductive Pend where
  | none
  | cfgw1 (w0 : ConfigWord)
  | calcData (rem : Nat) (t : Half) (len : Len)
  deriving DecidableEq, Repr

/-- The fault codes (60_exceptions.md R192). Codes 8 to 15 are never produced, so they have no constructor. -/
inductive FaultCode where
  | none
  | illegalCommand
  | noConfig
  | regConsumed
  | illegalBit
  | illegalConfig
  | illegalOperand
  | verifyUnsupported
  deriving DecidableEq, Repr

/-- One access of the host to this instance (20_memory.md R54, 70_reset R232, R236): a store of `size` bytes of
value `v` at an offset of the window, a load of `size` bytes, or an assertion of reset. -/
inductive HostOp where
  | write (size off : Nat) (v : Word)
  | read (size off : Nat)
  | reset
  deriving DecidableEq, Repr

/-- Why the machine stops with a fault. The engine's own faults (R191, R192) are not here: raising one is a next
state, in which FAULT, FAULT_CODE and FAULT_CMD record it. -/
inductive Fault where
  /-- Raised by the host access layer (Machine/Window.lean, Machine/Platform.lean) when a host access is at an
  offset of 0x20 or more, or at an address in no instance's window: the engine's only address space is the
  32-byte window (R51, R52). Safe: no engine state changes and the run has no next state. -/
  | outsideWindow
  deriving DecidableEq, Repr

/-- Why an access has no meaning. -/
inductive Refusal where
  /-- A command without a meaning. No arm of exec answers it: every command of the table has its meaning. Safe. -/
  | notModelled (mnemonic : String)
  /-- Raised by the host access layer (Machine/Window.lean) when a host access to the window is not 32 bits wide
  or not at a multiple of 4: "A model refuses it" (R53). Safe: nothing can be proved about such a run. -/
  | undefinedAccess
  deriving DecidableEq, Repr

/-- One instance (R37) and the host's side of it. `session` holds S, CFG and R; T is inside `pend`. The last two
fields are the model's own: the accesses the host has still to make, oldest first, and the words it has read so
far, oldest first (70_reset R237). -/
structure State where
  session : Session
  pend : Pend
  result : Half
  rv : Bool
  faulted : Bool
  faultCode : FaultCode
  faultCmd : Word
  host : List HostOp
  reads : List Word
  deriving DecidableEq, Repr

/-- Right after reset (70_reset R231): CFG and R hold no value, S = UNCONFIGURED, PEND = NONE, and RESULT, RV,
FAULT, FAULT_CODE and FAULT_CMD are 0. DESIGN CHOICE (log entries 1 and 2): the host has made no access yet and none is
scheduled. -/
def State.reset : State :=
  { session := .unconfigured
    pend := .none
    result := 0#16
    rv := false
    faulted := false
    faultCode := .none
    faultCmd := 0#32
    host := []
    reads := [] }

end Sys2Proof.Machine
end

