-- ==== Sys2Proof/Machine/Datapath.lean ====
section
/-!
DEFINITION. The CRC datapath (40_datapath.md): bit reversal, the byte fold, the bit fold, the output transform and
the verify predicate. Registers are held in 16 bits; for W = 8 the high byte is zero (00_scope.md R7).
-/
namespace Sys2Proof.Machine

/-- `mask_W = 2^W - 1` (00_scope.md R11). -/
def Cfg.mask (c : Cfg) : Half :=
  match c.width with
  | .w8 => 0x00FF#16
  | .w16 => 0xFFFF#16

/-- `rev_8` (R101). -/
def rev8 (v : Byte) : Byte := v.reverse

/-- `rev_16` (R101). -/
def rev16 (v : Half) : Half := v.reverse

/-- `rev_W` of a W-bit value held in 16 bits (R101, R111). -/
def Cfg.revW (c : Cfg) (v : Half) : Half :=
  match c.width with
  | .w8 => (rev8 (v.extractLsb' 0 8)).setWidth 16
  | .w16 => rev16 v

/-- Input reflection, `b' = REFIN ? rev_8(b) : b` (R102). -/
def Cfg.reflectIn (c : Cfg) (b : Byte) : Byte := if c.refin then rev8 b else b

/-- The mixing byte `m = b' ^ R[W-1 : W-8]` (R103). -/
def Cfg.mixingByte (c : Cfg) (r : Half) (b : Byte) : Byte :=
  c.reflectIn b ^^^ r.extractLsb' (c.width.bits - 8) 8

/-- The top bit of a W-bit register, bit W-1. -/
def Cfg.topBit (c : Cfg) (v : Half) : Bool := v.getLsbD (c.width.bits - 1)

/-- One shift and conditional XOR: the register shifted left by one, kept to W bits, with POLY XORed in when `t`
(the body of R105 and of R107). -/
def Cfg.shiftXor (c : Cfg) (t : Bool) (v : Half) : Half :=
  let shifted := (v <<< 1) &&& c.mask
  if t then shifted ^^^ c.poly else shifted

/-- One of the 8 steps of `gen` (R105). -/
def Cfg.genStep (c : Cfg) (v : Half) : Half := c.shiftXor (c.topBit v) v

/-- `gen(m)` (R105): m in the top 8 bits of a W-bit value, then 8 steps. -/
def Cfg.gen (c : Cfg) (m : Byte) : Half :=
  (c.genStep)^[8] (m.setWidth 16 <<< (c.width.bits - 8))

/-- `byte_fold(R, b)` (R104). For W = 8, gen(m) is the whole new register (R106). -/
def Cfg.byteFold (c : Cfg) (r : Half) (b : Byte) : Half :=
  match c.width with
  | .w16 => (r <<< 8) ^^^ c.gen (c.mixingByte r b)
  | .w8 => c.gen (c.mixingByte r b)

/-- `bit_fold(R, x)` (R107). -/
def Cfg.bitFold (c : Cfg) (r : Half) (x : Bool) : Half := c.shiftXor (c.topBit r ^^ x) r

/-- The bits of a byte, most significant first. -/
def byteBits (b : Byte) : List Bool :=
  [b.getLsbD 7, b.getLsbD 6, b.getLsbD 5, b.getLsbD 4, b.getLsbD 3, b.getLsbD 2, b.getLsbD 1, b.getLsbD 0]

/-- `byte_fold_bits(R, b)` (R108): the byte, reflected if REFIN, bit by bit, most significant first. -/
def Cfg.byteFoldBits (c : Cfg) (r : Half) (b : Byte) : Half :=
  (byteBits (c.reflectIn b)).foldl c.bitFold r

/-- `fold(R, M)` over a byte sequence, in order (R110). -/
def Cfg.fold (c : Cfg) (r : Half) (m : List Byte) : Half := m.foldl c.byteFold r

/-- `out(R)`: reversal if REFOUT, then XOR with XOROUT (R111; 90_conflicts.md C1). -/
def Cfg.out (c : Cfg) (r : Half) : Half := (if c.refout then c.revW r else r) ^^^ c.xorout

/-- `verify_capable(CFG)` (R112; 90_conflicts.md C2). -/
def Cfg.verifyCapable (c : Cfg) : Bool := !c.refin && !c.refout && c.xorout == 0#16

/-- `verify_pred(R) = (R == 0)` (R113). -/
def verifyPred (r : Half) : Bool := r == 0#16

end Sys2Proof.Machine
end

