-- ==== Sys2Proof/Decode.lean ====
section
/-!
DEFINITION. Decoding and encoding of commands (30_encoding.md R71 to R83). Decoding is total on any list of
words and rejects by name; every rejection of a first word is ILLEGAL_COMMAND when the engine meets it (R80,
R81). The engine is given whole 32-bit words (R71, 20_memory.md R53, R63), so the unit of decoding is the word.
-/
namespace Sys2Proof

/-- Why words spell no command. -/
inductive DecodeReject where
  /-- There is no word. -/
  | noWord
  /-- OP is 0x0 or 0xA to 0xF (R80). -/
  | reservedOpcode
  /-- A defined OP with a nonzero reserved bit (R81). -/
  | reservedBits
  /-- A CONFIG first word alone: the command has two words (R76, R83). -/
  | needsSecondWord
  deriving DecidableEq, Repr

/-- What a first word spells: a CONFIG first word, which waits for the second (R131), or a whole command. -/
inductive FirstWord where
  | configWord (w0 : ConfigWord)
  | whole (i : Instr)
  deriving DecidableEq, Repr

/-- Opcode assignment (R79). -/
def opcodeOf (op : BitVec 4) : Option Opcode :=
  match op with
  | 0x1#4 => some .config
  | 0x2#4 => some .init
  | 0x3#4 => some .pushbit
  | 0x4#4 => some .wrbyte
  | 0x5#4 => some .finish
  | 0x6#4 => some .verify
  | 0x7#4 => some .rdreg
  | 0x8#4 => some .ldreg
  | 0x9#4 => some .calculate
  | _ => none

/-- The row of R79 a first word selects: the opcode, then the reserved bits (R80, R81, 60_exceptions.md R198). -/
def select (w : Word) : Except DecodeReject Opcode :=
  match opcodeOf (opField w) with
  | none => .error .reservedOpcode
  | some op => if reservedZero op w then .ok op else .error .reservedBits

/-- The operands of a first word that selects `op` (R72). -/
def operandsOf (op : Opcode) (w : Word) : FirstWord :=
  match op with
  | .config => .configWord (configFields w)
  | .init => .whole .init
  | .pushbit => .whole (.pushbit (dataField w))
  | .wrbyte => .whole (.wrbyte (dataField w))
  | .finish => .whole .finish
  | .verify => .whole .verify
  | .rdreg => .whole .rdreg
  | .ldreg => .whole (.ldreg (valueField w))
  | .calculate => .whole (.calculate (lenField w))

/-- What a first word spells, or the reason it spells nothing (R82). -/
def decodeFirst (w : Word) : Except DecodeReject FirstWord :=
  match select w with
  | .error e => .error e
  | .ok op => .ok (operandsOf op w)

/-- A CONFIG from its accepted first word and its second word, which has no opcode and no reserved field (R76). -/
def configOf (w0 : ConfigWord) (w1 : Word) : Instr := .config w0 (initField w1) (xoroutField w1)

/-- The command at the front of a list of words, and the words after it. CALC's payload words are data of the
running command and are left in the list (R83). -/
def decode : List Word → Except DecodeReject (Instr × List Word)
  | [] => .error .noWord
  | w :: ws =>
    match decodeFirst w with
    | .error e => .error e
    | .ok (.whole i) => .ok (i, ws)
    | .ok (.configWord w0) =>
      match ws with
      | [] => .error .needsSecondWord
      | w1 :: ws' => .ok (configOf w0 w1, ws')

/-! ### The encoder -/

/-- `OP` of each command (R79). -/
def Opcode.code : Opcode → BitVec 4
  | .config => 0x1#4
  | .init => 0x2#4
  | .pushbit => 0x3#4
  | .wrbyte => 0x4#4
  | .finish => 0x5#4
  | .verify => 0x6#4
  | .rdreg => 0x7#4
  | .ldreg => 0x8#4
  | .calculate => 0x9#4

/-- The CONFIG first word w0 with these fields (R76, R85): opcode 0x1, nine zero bits, REFOUT, REFIN, WSEL, POLY. -/
def ConfigWord.toWord (w0 : ConfigWord) : Word :=
  place 28 Opcode.config.code ||| place 18 (BitVec.ofBool w0.refout) ||| place 17 (BitVec.ofBool w0.refin)
    ||| place 16 (BitVec.ofBool w0.width.wsel) ||| place 0 w0.poly

/-- The first word of a command (R73 to R77, R85): what a fault of it records as FAULT_CMD (R90, R191). -/
def Instr.firstWord : Instr → Word
  | .config w0 _ _ => w0.toWord
  | .init => place 28 Opcode.init.code
  | .pushbit data => place 28 Opcode.pushbit.code ||| place 0 data
  | .wrbyte data => place 28 Opcode.wrbyte.code ||| place 0 data
  | .finish => place 28 Opcode.finish.code
  | .verify => place 28 Opcode.verify.code
  | .rdreg => place 28 Opcode.rdreg.code
  | .ldreg value => place 28 Opcode.ldreg.code ||| place 0 value
  | .calculate len => place 28 Opcode.calculate.code ||| place 0 len

/-- The words after the first that are part of a command's encoding: CONFIG's second word (R76). -/
def Instr.laterWords : Instr → List Word
  | .config _ ini xorout => [place 16 ini ||| place 0 xorout]
  | .init | .pushbit _ | .wrbyte _ | .finish | .verify | .rdreg | .ldreg _ | .calculate _ => []

/-- The words of a command, less the message data of a CALC (R85). -/
def encode (i : Instr) : List Word := i.firstWord :: i.laterWords

/-! ### The opcode table, as masks and patterns (R79) -/

/-- The first-word match of each row (R79, spec/opcode_table.json). -/
def Opcode.pattern : Opcode → Word
  | .config => 0x10000000#32
  | .init => 0x20000000#32
  | .pushbit => 0x30000000#32
  | .wrbyte => 0x40000000#32
  | .finish => 0x50000000#32
  | .verify => 0x60000000#32
  | .rdreg => 0x70000000#32
  | .ldreg => 0x80000000#32
  | .calculate => 0x90000000#32

/-- The first-word mask of each row (R79, spec/opcode_table.json). -/
def Opcode.mask : Opcode → Word
  | .config => 0xFFF80000#32
  | .pushbit | .wrbyte => 0xFFFFFF00#32
  | .ldreg => 0xFFFF0000#32
  | .calculate => 0xF0000000#32
  | .init | .finish | .verify | .rdreg => 0xFFFFFFFF#32

/-- "A first word w selects a command when `(w & mask) == match`" (R79). -/
def Opcode.matchesWord (op : Opcode) (w : Word) : Bool := w &&& op.mask == op.pattern

/-! ### The host's numbering of an instruction's bits -/

/-- The first word and the next word of an instruction whose bits are `w`: bit 0 is the least significant bit of
the first word, the second word is bits 63..32, and every bit from `nbits` up is 0. -/
def tableWords (nbits w : Nat) : Word × Word :=
  (BitVec.ofNat 32 (w % 2 ^ nbits), BitVec.ofNat 32 (w % 2 ^ nbits / 2 ^ 32))

/-- The instruction the decoder reads from those bits, none where it refuses. -/
def decodeTableWord (nbits w : Nat) : Option Instr :=
  match decode [(tableWords nbits w).1, (tableWords nbits w).2] with
  | .ok (i, _) => some i
  | .error _ => none

end Sys2Proof
end

