-- ==== Sys2Proof/Machine/Ops.lean ====
section
/-!
DEFINITION. The named operations over the state (10_state.md R23 to R31), fault entry (60_exceptions.md R191) and
the one way out of a fault, reset (R201), beside it.
-/
namespace Sys2Proof.Machine

/-- The value of S as STATUS.SESSION shows it (R24, R28). -/
def Session.code : Session → BitVec 2
  | .unconfigured => 0#2
  | .active _ _ => 1#2
  | .finished _ => 2#2

/-- CFG, where it exists (R23). -/
def State.cfg? (s : State) : Option Cfg :=
  match s.session with
  | .unconfigured => none
  | .active c _ => some c
  | .finished c => some c

/-- R, where it exists: only while S = ACTIVE (R26). -/
def State.reg? (s : State) : Option Half :=
  match s.session with
  | .unconfigured => none
  | .active _ r => some r
  | .finished _ => none

/-- T, where it exists: only inside PEND = CALCDATA (R31). -/
def State.transient? (s : State) : Option Half :=
  match s.pend with
  | .none => none
  | .cfgw1 _ => none
  | .calcData _ t _ => some t

/-- A live register: `R <- r; S <- ACTIVE` under the configuration `c` (R24, R25). -/
def State.withRegister (c : Cfg) (r : Half) (s : State) : State := { s with session := .active c r }

/-- The register is consumed: `S <- FINISHED`, and R holds no value (R24, R26). -/
def State.consume (c : Cfg) (s : State) : State := { s with session := .finished c }

/-- `PEND <- p` (R30). -/
def State.withPend (p : Pend) (s : State) : State := { s with pend := p }

/-- `respond(v)`: `RESULT <- zext_16(v); RV <- 1` (R27). -/
def respond (v : Half) (s : State) : State := { s with result := v, rv := true }

/-- Fault entry, `raise Fault(code)` during a command whose first word is `cmd0` (R191). CFG, S, R, RESULT and RV
keep the values they had before the command. -/
def raiseFault (code : FaultCode) (cmd0 : Word) (s : State) : State :=
  { s with faulted := true, faultCode := code, faultCmd := cmd0, pend := .none }

/-- Reset (70_reset R231, R232): every element of the instance to its reset value. It is the only way out of a
fault (R201). What the host has read and has still to do are the host's, and stay. -/
def State.engineReset (s : State) : State := { State.reset with host := s.host, reads := s.reads }

/-- The check every command but CONFIG makes: NO_CONFIG while S = UNCONFIGURED (R193), else go on with CFG. -/
def withCfg (cmd0 : Word) (s : State) (k : Cfg → State) : State :=
  match s.cfg? with
  | none => raiseFault .noConfig cmd0 s
  | some c => k c

/-- The checks of a command that reads R, in the order of R198: NO_CONFIG while S = UNCONFIGURED (R193), then
REG_CONSUMED while S = FINISHED (R194), else go on with CFG and R. -/
def withReg (cmd0 : Word) (s : State) (k : Cfg → Half → State) : State :=
  match s.session with
  | .unconfigured => raiseFault .noConfig cmd0 s
  | .finished _ => raiseFault .regConsumed cmd0 s
  | .active c r => k c r

end Sys2Proof.Machine
end

