-- ==== Sys2Proof/Machine/Flags.lean ====
section
/-!
DEFINITION. The status bits and the computed registers: STATUS (10_state.md R28), CFG0 and CFG1 (R32). The engine
has no condition codes (R33); these hold no state of their own.
-/
namespace Sys2Proof.Machine

/-- The 4-bit code of a fault (60_exceptions.md R192). -/
def FaultCode.code : FaultCode → BitVec 4
  | .none => 0#4
  | .illegalCommand => 1#4
  | .noConfig => 2#4
  | .regConsumed => 3#4
  | .illegalBit => 4#4
  | .illegalConfig => 5#4
  | .illegalOperand => 6#4
  | .verifyUnsupported => 7#4

/-- STATUS.PEND: 1 exactly when PEND is not NONE (R28, R30). -/
def State.pendBit (s : State) : Bool :=
  match s.pend with
  | .none => false
  | .cfgw1 _ => true
  | .calcData _ _ _ => true

/-- STATUS.VC: 1 when a configuration exists and it is verify-capable (R28). -/
def State.vcBit (s : State) : Bool :=
  match s.cfg? with
  | none => false
  | some c => c.verifyCapable

/-- STATUS.FAULT_CODE: the fault code, 0 when FAULT = 0 (R28). -/
def State.codeBits (s : State) : BitVec 4 := if s.faulted then s.faultCode.code else 0#4

/-- STATUS (R28): FAULT_CODE in [11:8], VC [5], PEND [4], RV [3], FAULT [2], SESSION [1:0]; every other bit 0. -/
def State.status (s : State) : Word :=
  place 8 s.codeBits ||| place 5 (BitVec.ofBool s.vcBit) ||| place 4 (BitVec.ofBool s.pendBit)
    ||| place 3 (BitVec.ofBool s.rv) ||| place 2 (BitVec.ofBool s.faulted) ||| place 0 s.session.code

/-- CFG0 (R32): REFOUT [18], REFIN [17], WSEL [16], POLY [15:0]; 0 while S = UNCONFIGURED. -/
def State.cfg0 (s : State) : Word :=
  match s.cfg? with
  | none => 0#32
  | some c => place 18 (BitVec.ofBool c.refout) ||| place 17 (BitVec.ofBool c.refin)
      ||| place 16 (BitVec.ofBool c.width.wsel) ||| place 0 c.poly

/-- CFG1 (R32): INIT [31:16], XOROUT [15:0]; 0 while S = UNCONFIGURED. -/
def State.cfg1 (s : State) : Word :=
  match s.cfg? with
  | none => 0#32
  | some c => place 16 c.init ||| place 0 c.xorout

end Sys2Proof.Machine
end

