-- ==== Sys2Proof/Machine/Configuration.lean ====
section
/-!
DEFINITION. The configuration command (41_configuration.md R131 to R134). The family of the table's CONFIG row.
-/
namespace Sys2Proof.Machine

/-- The configuration a CONFIG spells (R131). -/
def cfgOf (w0 : ConfigWord) (init xorout : Half) : Cfg :=
  { width := w0.width, poly := w0.poly, init := init, xorout := xorout, refin := w0.refin, refout := w0.refout }

/-- `config_first(w0)` after its reserved-bit check (R131): wait for the second word. -/
def configFirst (w0 : ConfigWord) (s : State) : State := s.withPend (.cfgw1 w0)

/-- CONFIG, at its second word (`config_second`, R131): ILLEGAL_CONFIG with FAULT_CMD = w0 when W = 8 and a value
field has a nonzero high byte (R132); else CFG is written, `R <- CFG.INIT` and `S <- ACTIVE`. Accepted in every
session state. The command processor has set PEND to NONE before it (R90). -/
def execConfig (w0 : ConfigWord) (init xorout : Half) (s : State) : Host.Outcome State Fault Refusal :=
  if w0.width.fits w0.poly && w0.width.fits init && w0.width.fits xorout then
    .next (s.withRegister (cfgOf w0 init xorout) init)
  else
    .next (raiseFault .illegalConfig w0.toWord s)

end Sys2Proof.Machine
end

