-- ==== Sys2Proof/Machine/Oneshot.lean ====
section
/-!
DEFINITION. The one-shot engine (42_oneshot.md): CALC and its payload words.
-/
namespace Sys2Proof.Machine

/-- CALC (`calc_first`, R141): with LEN = 0 it responds at once with `out(CFG.INIT)`; else it starts and takes its
payload words one by one, `PEND <- CALCDATA(len, CFG.INIT, len)`. R, S and CFG are never written. -/
def execCalc (len : Len) (s : State) : Host.Outcome State Fault Refusal :=
  .next (withCfg (Instr.calculate len).firstWord s fun c =>
    if len = 0#28 then respond (c.out c.init) s
    else s.withPend (.calcData len.toNat c.init len))

/-- A payload word of a running CALC (`calc_payload`, R143): it folds the next min(rem, 4) bytes into T, and after
the last byte `PEND <- NONE; respond(out(T))`. DEDUCED (log entry 7): without a configuration, which no run
reaches, it raises NO_CONFIG, as every read of an absent CFG does (10_state.md R23). -/
def calcPayload (rem : Nat) (t : Half) (len : Len) (w : Word) (s : State) : State :=
  withCfg (Instr.calculate len).firstWord s fun c =>
    let k := min rem 4
    let t' := c.fold t (payloadBytes w k)
    if rem - k = 0 then respond (c.out t') (s.withPend .none)
    else s.withPend (.calcData (rem - k) t' len)

end Sys2Proof.Machine
end

