-- ==== Sys2Proof/Config.lean ====
section
/-!
DEFINITION. What an implementation or its platform fixes and the spec leaves OPEN (00_scope.md R7). Each is an
opaque constant, so that a statement proved about the model holds for every choice of it.
-/
namespace Sys2Proof

/-- VERIFY_GUARD (R156): whether VERIFY faults on a configuration that is not verify-capable. OPEN. -/
opaque Config.verifyGuard : Bool

/-- How many instances a platform has beyond the first (R7, R36: N_INST is OPEN and at least 1). -/
opaque Config.extraInstances : Nat

/-- N_INST (R7, R36). -/
def Config.nInst : Nat := Config.extraInstances + 1

/-- How many 32-byte blocks of address space lie free below the window of instance `k` and above the window
before it. OPEN: with it every placement of the windows at multiples of 32 is possible (R52). -/
opaque Config.baseGap : Nat → Nat

/-- CRC_BASE of instance `k` (R52): a multiple of 32, instances numbered in the order of their windows.
DESIGN CHOICE (log entry 10): the numbering by address; safe, a numbering has no effect (R209). -/
def Config.crcBase : Nat → Nat
  | 0 => 32 * Config.baseGap 0
  | k + 1 => Config.crcBase k + 32 + 32 * Config.baseGap (k + 1)

end Sys2Proof
end

