-- ==== Sys2Proof/Machine/Streaming.lean ====
section
/-!
DEFINITION. The streaming engine (43_streaming.md): INIT, PUSHBIT, WRBYTE, FINISH, VERIFY, RDREG, LDREG. Their
reserved bits are checked at decoding, before every other check (60_exceptions.md R198).
-/
namespace Sys2Proof.Machine

/-- INIT (R151): `R <- CFG.INIT; S <- ACTIVE`. -/
def execInit (s : State) : Host.Outcome State Fault Refusal :=
  .next (withCfg Instr.init.firstWord s fun c => s.withRegister c c.init)

/-- PUSHBIT (R152): fold one bit; ILLEGAL_BIT when DATA is 2 to 255 (R195). REFIN does not apply. -/
def execPushbit (data : Byte) (s : State) : Host.Outcome State Fault Refusal :=
  .next (withReg (Instr.pushbit data).firstWord s fun c r =>
    if 1#8 < data then raiseFault .illegalBit (Instr.pushbit data).firstWord s
    else s.withRegister c (c.bitFold r (data.getLsbD 0)))

/-- WRBYTE (R153): fold one byte by the bit fold (R108). -/
def execWrbyte (data : Byte) (s : State) : Host.Outcome State Fault Refusal :=
  .next (withReg (Instr.wrbyte data).firstWord s fun c r => s.withRegister c (c.byteFoldBits r data))

/-- FINISH (R154): `respond(out(R)); S <- FINISHED`. -/
def execFinish (s : State) : Host.Outcome State Fault Refusal :=
  .next (withReg Instr.finish.firstWord s fun c r => (respond (c.out r) s).consume c)

/-- VERIFY (R155, R156): `respond((R == 0) ? 1 : 0); S <- FINISHED`; VERIFY_UNSUPPORTED when VERIFY_GUARD holds and
the configuration is not verify-capable. -/
def execVerify (s : State) : Host.Outcome State Fault Refusal :=
  .next (withReg Instr.verify.firstWord s fun c r =>
    if Config.verifyGuard && !c.verifyCapable then raiseFault .verifyUnsupported Instr.verify.firstWord s
    else (respond (if verifyPred r then 1#16 else 0#16) s).consume c)

/-- RDREG (R157): `respond(R)`; R and S are unchanged. -/
def execRdreg (s : State) : Host.Outcome State Fault Refusal :=
  .next (withReg Instr.rdreg.firstWord s fun _ r => respond r s)

/-- LDREG (R158): `R <- VALUE; S <- ACTIVE`; ILLEGAL_OPERAND when W = 8 and VALUE > 0xFF (R196). -/
def execLdreg (value : Half) (s : State) : Host.Outcome State Fault Refusal :=
  .next (withCfg (Instr.ldreg value).firstWord s fun c =>
    if c.width.fits value then s.withRegister c value
    else raiseFault .illegalOperand (Instr.ldreg value).firstWord s)

end Sys2Proof.Machine
end

