-- ==== Sys2Proof/Machine/Dispatch.lean ====
section
/-!
DEFINITION. The dispatch of a decoded command to its meaning, one arm per constructor (30_encoding.md R90).
-/
namespace Sys2Proof.Machine

def exec (i : Instr) (s : State) : Host.Outcome State Fault Refusal :=
  match i with
  | .config w0 ini xorout => Sys2Proof.Machine.execConfig w0 ini xorout s
  | .init => Sys2Proof.Machine.execInit s
  | .pushbit data => Sys2Proof.Machine.execPushbit data s
  | .wrbyte data => Sys2Proof.Machine.execWrbyte data s
  | .finish => Sys2Proof.Machine.execFinish s
  | .verify => Sys2Proof.Machine.execVerify s
  | .rdreg => Sys2Proof.Machine.execRdreg s
  | .ldreg value => Sys2Proof.Machine.execLdreg value s
  | .calculate len => Sys2Proof.Machine.execCalc len s

end Sys2Proof.Machine
end

