-- ==== Sys2Proof/Machine/Processor.lean ====
section
/-!
DEFINITION. The command processor: the engine's step on a CMD word (30_encoding.md R90).
-/
namespace Sys2Proof.Machine

/-- A CMD word taken as the first word of a command (R90, PEND = NONE): a CONFIG first word waits for its second
word, every other command executes, and a word that spells no command raises ILLEGAL_COMMAND (R80, R81). -/
def onFirstWord (w : Word) (s : State) : Host.Outcome State Fault Refusal :=
  match decodeFirst w with
  | .error _ => .next (raiseFault .illegalCommand w s)
  | .ok (.configWord w0) => .next (configFirst w0 s)
  | .ok (.whole i) => exec i s

/-- `on_cmd(w)` (R90). A faulted engine discards the word (60_exceptions.md R197). While PEND is not NONE the word
is data of the command in progress (R83): CONFIG's second word, or payload of a running CALC. -/
def onCmd (w : Word) (s : State) : Host.Outcome State Fault Refusal :=
  if s.faulted then .next s
  else
    match s.pend with
    | .cfgw1 w0 => exec (configOf w0 w) (s.withPend .none)
    | .calcData rem t len => .next (calcPayload rem t len w s)
    | .none => onFirstWord w s

end Sys2Proof.Machine
end

