-- ==== Sys2Proof/Machine/Window.lean ====
section
/-!
DEFINITION. The host's accesses to the register window (20_memory.md R52 to R59) and reset (70_reset R232).
-/
namespace Sys2Proof.Machine

/-- The registers of the window (R54). -/
inductive WindowReg where
  | cmd
  | result
  | status
  | faultCmd
  | cfg0
  | cfg1
  | reserved18
  | reserved1C
  deriving DecidableEq, Repr

/-- The offset of each register (R54). -/
def WindowReg.offset : WindowReg → Nat
  | .cmd => 0x00
  | .result => 0x04
  | .status => 0x08
  | .faultCmd => 0x0C
  | .cfg0 => 0x10
  | .cfg1 => 0x14
  | .reserved18 => 0x18
  | .reserved1C => 0x1C

/-- The register at an offset of the window that is a multiple of 4 (R54). -/
def WindowReg.at? (off : Nat) : Option WindowReg :=
  [WindowReg.cmd, .result, .status, .faultCmd, .cfg0, .cfg1, .reserved18, .reserved1C].find? fun r => r.offset == off

/-- What a host load of a register returns (R54, R56, R57). It has no side effect (R59). -/
def readReg (r : WindowReg) (s : State) : Word :=
  match r with
  | .cmd => 0#32
  | .result => s.result.setWidth 32
  | .status => s.status
  | .faultCmd => s.faultCmd
  | .cfg0 => s.cfg0
  | .cfg1 => s.cfg1
  | .reserved18 => 0#32
  | .reserved1C => 0#32

/-- What a host store to a register does (R54, R55, R58): a word to CMD goes to the command processor, every other
store is ignored. -/
def writeReg (r : WindowReg) (v : Word) (s : State) : Host.Outcome State Fault Refusal :=
  match r with
  | .cmd => onCmd v s
  | .result => .next s
  | .status => .next s
  | .faultCmd => .next s
  | .cfg0 => .next s
  | .cfg1 => .next s
  | .reserved18 => .next s
  | .reserved1C => .next s

/-- The rule of every access (R51 to R53): an offset past the window is no register of the engine; inside it, only
a 32-bit access at a multiple of 4 is defined. -/
def access (size off : Nat) (k : WindowReg → Host.Outcome State Fault Refusal) : Host.Outcome State Fault Refusal :=
  if 0x20 ≤ off then .fault .outsideWindow
  else if size = 4 then
    match WindowReg.at? off with
    | some r => k r
    | none => .refused .undefinedAccess
  else .refused .undefinedAccess

/-- One access of the host (R54, 70_reset R232). The value a load returns is added to what the host has read. -/
def hostStep (op : HostOp) (s : State) : Host.Outcome State Fault Refusal :=
  match op with
  | .write size off v => access size off fun r => writeReg r v s
  | .read size off => access size off fun r => .next { s with reads := s.reads ++ [readReg r s] }
  | .reset => .next s.engineReset

/-- The machine's next state: the host's oldest outstanding access takes place; with none outstanding the engine is
idle and keeps all its state (60_exceptions.md R211). -/
def nextAccess (s : State) : Host.Outcome State Fault Refusal :=
  match s.host with
  | [] => .next s
  | op :: rest => hostStep op { s with host := rest }

/-- The host's store of a word to CMD (R55). -/
def HostOp.cmd (w : Word) : HostOp := .write 4 0x00 w

/-- The first access and the PEND under which a command whose words are `w0`, `w1` is the next thing the engine
runs: a CONFIG whose first word has been accepted, with its second word next, or the first word itself. -/
def placeCommand (s : State) (w0 w1 : Word) : State :=
  match decodeFirst w0 with
  | .ok (.configWord c) => { s with pend := .cfgw1 c, host := HostOp.cmd w1 :: s.host }
  | .ok (.whole _) => { s with pend := .none, host := HostOp.cmd w0 :: s.host }
  | .error _ => { s with pend := .none, host := HostOp.cmd w0 :: s.host }

end Sys2Proof.Machine
end

