-- ==== Sys2Proof/Machine/Step.lean ====
section
/-!
DEFINITION. The step: one access of the host (70_reset R240: each CMD write is one atomic step), and the placing of
a command as the next thing the engine runs.
-/
namespace Sys2Proof.Machine

/-- One step of the machine. -/
def step (s : State) : Host.Outcome State Fault Refusal := nextAccess s

/-- `s` with the command whose bits are `w` placed so that the next step runs it (log entry 3): the host's next
access stores it to CMD. For a CONFIG, whose first word only waits (R131), that word counts as accepted and the
next access stores the second word. -/
def State.withFetchWord (s : State) (nbits w : Nat) : State :=
  placeCommand s (tableWords nbits w).1 (tableWords nbits w).2

end Sys2Proof.Machine
end

