-- ==== Sys2Proof/Machine/Assembler.lean ====
section
/-!
DEFINITION. The assembler's lines and pseudo-instructions (30_encoding.md R85, R86), from operands to command
words. Text is not parsed: syntax has no behaviour (decision D25).
-/
namespace Sys2Proof.Machine

/-- The seven named configurations of R86. -/
inductive NamedConfig where
  | crc16Xmodem
  | crc16Genibus
  | crc16Cdma2000
  | crc8
  | crc8Cdma2000
  | crc8Darc
  | crc8DvbS2
  deriving DecidableEq, Repr

/-- The row of each named configuration (R86). -/
def NamedConfig.cfg : NamedConfig → Cfg
  | .crc16Xmodem => { width := .w16, poly := 0x1021#16, init := 0x0000#16, xorout := 0x0000#16, refin := false, refout := false }
  | .crc16Genibus => { width := .w16, poly := 0x1021#16, init := 0xFFFF#16, xorout := 0xFFFF#16, refin := false, refout := false }
  | .crc16Cdma2000 => { width := .w16, poly := 0xC867#16, init := 0xFFFF#16, xorout := 0x0000#16, refin := false, refout := false }
  | .crc8 => { width := .w8, poly := 0x07#16, init := 0x00#16, xorout := 0x00#16, refin := false, refout := false }
  | .crc8Cdma2000 => { width := .w8, poly := 0x9B#16, init := 0xFF#16, xorout := 0x00#16, refin := false, refout := false }
  | .crc8Darc => { width := .w8, poly := 0x39#16, init := 0x00#16, xorout := 0x00#16, refin := true, refout := true }
  | .crc8DvbS2 => { width := .w8, poly := 0xD5#16, init := 0x00#16, xorout := 0x00#16, refin := false, refout := false }

/-- The CONFIG that sets a configuration. -/
def Cfg.toInstr (c : Cfg) : Instr :=
  .config { refout := c.refout, refin := c.refin, width := c.width, poly := c.poly } c.init c.xorout

/-- One line of assembly: the nine mnemonics with their operands as numbers (R85), then the pseudo-instructions
(R86). -/
inductive AsmLine where
  | config (width : Width) (poly init xorout : Nat) (refin refout : Bool)
  | init
  | pushbit (b : Nat)
  | wrbyte (d : Nat)
  | finish
  | verify
  | rdreg
  | ldreg (v : Nat)
  | calculate (len : Nat) (payload : List Word)
  | configNamed (name : NamedConfig)
  | write (bytes : List Byte)
  | pushbyteN (d : Byte)
  | pushbyteR (d : Byte)
  | append8 (c : Byte)
  | append16 (c : Half)
  | calcBytes (bytes : List Byte)
  deriving DecidableEq, Repr

/-- A number in a field of `n` bits; none is an assembly error (R85). -/
def asmField (n v : Nat) : Option (BitVec n) := if v < 2 ^ n then some (BitVec.ofNat n v) else none

/-- The payload words of a message, first byte least significant, unused bytes 0 (R86, 42_oneshot.md R142). -/
def packWords : List Byte → List Word
  | [] => []
  | [a] => [place 0 a]
  | [a, b] => [place 0 a ||| place 8 b]
  | [a, b, c] => [place 0 a ||| place 8 b ||| place 16 c]
  | a :: b :: c :: d :: rest => (place 0 a ||| place 8 b ||| place 16 c ||| place 24 d) :: packWords rest

/-- One WRBYTE per byte, in order (R86 WRITE). -/
def writeWords (bytes : List Byte) : List Word := bytes.flatMap fun b => encode (.wrbyte b)

/-- One PUSHBIT per bit, in order (R86). -/
def pushWords (bits : List Bool) : List Word := bits.flatMap fun b => encode (.pushbit (if b then 1#8 else 0#8))

/-- The W/8 bytes of a checksum, most significant first (20_memory.md R62). -/
def Cfg.checksumBytes (c : Cfg) (v : Half) : List Byte :=
  match c.width with
  | .w8 => [v.extractLsb' 0 8]
  | .w16 => [v.extractLsb' 8 8, v.extractLsb' 0 8]

/-- The command words a line encodes, none when an operand does not fit its field (R85, R86). -/
def assemble : AsmLine → Option (List Word)
  | .config wd poly ini xo refin refout => do
    let p ← asmField 16 poly
    let n ← asmField 16 ini
    let x ← asmField 16 xo
    pure (encode (.config { refout := refout, refin := refin, width := wd, poly := p } n x))
  | .init => some (encode .init)
  | .pushbit b => (asmField 8 b).map fun d => encode (.pushbit d)
  | .wrbyte b => (asmField 8 b).map fun d => encode (.wrbyte d)
  | .finish => some (encode .finish)
  | .verify => some (encode .verify)
  | .rdreg => some (encode .rdreg)
  | .ldreg v => (asmField 16 v).map fun d => encode (.ldreg d)
  | .calculate len payload => (asmField 28 len).map fun n => encode (.calculate n) ++ payload
  | .configNamed name => some (encode name.cfg.toInstr)
  | .write bytes => some (writeWords bytes)
  | .pushbyteN d => some (pushWords (byteBits d))
  | .pushbyteR d => some (pushWords (byteBits d).reverse)
  | .append8 c => some (writeWords [c])
  | .append16 c => some (writeWords [c.extractLsb' 8 8, c.extractLsb' 0 8])
  | .calcBytes bytes => (asmField 28 bytes.length).map fun n => encode (.calculate n) ++ packWords bytes

end Sys2Proof.Machine
end

