-- ==== Sys2Proof/Machine/Platform.lean ====
section
/-!
DEFINITION. A platform with N_INST instances of the block behind one bus (10_state.md R36, 20_memory.md R52, R67,
60_exceptions.md R209). Each instance is a `State` of its own; nothing is shared. The bus list is in the order the
bus delivers the accesses of all hosts, which the spec leaves unconstrained (R67): it is any list.
-/
namespace Sys2Proof.Machine

/-- One event on the platform's bus: an access at an address, reset of one instance (70_reset R232), or reset of
all of them together (R209). -/
inductive BusOp where
  | write (size addr : Nat) (v : Word)
  | read (size addr : Nat)
  | resetOne (k : Nat)
  | resetAll
  deriving DecidableEq, Repr

/-- The instances, and the bus events still to come, oldest first. -/
structure Platform where
  instances : List State
  bus : List BusOp
  deriving DecidableEq, Repr

/-- At power-up all N_INST instances start together in their reset state (R209, R231). -/
def Platform.reset : Platform := { instances := List.replicate Config.nInst State.reset, bus := [] }

/-- Whether an address lies in the window of instance `k`: from CRC_BASE to CRC_BASE + 0x1F (R52). -/
def inWindow (k addr : Nat) : Bool :=
  decide (Config.crcBase k ≤ addr) && decide (addr < Config.crcBase k + 0x20)

/-- Which of the first `n` instances has this address in its window, and at which offset (R52). -/
def locate (addr : Nat) : Nat → Option (Nat × Nat)
  | 0 => none
  | k + 1 => if inWindow k addr then some (k, addr - Config.crcBase k) else locate addr k

/-- One access delivered to instance `k`: that instance steps, every other keeps its state (R67). -/
def Platform.deliver (p : Platform) (k : Nat) (op : HostOp) : Host.Outcome Platform Fault Refusal :=
  match p.instances[k]? with
  | none => .fault .outsideWindow
  | some s =>
    match step { s with host := op :: s.host } with
    | .next t => .next { p with instances := p.instances.set k t }
    | .fault r => .fault r
    | .refused r => .refused r

/-- An access at an address: delivered to the instance whose window holds it. DESIGN CHOICE (log entry 6): an
address in no window is none of the block's, and the run stops; safe. -/
def Platform.accessAt (p : Platform) (addr : Nat) (op : Nat → HostOp) : Host.Outcome Platform Fault Refusal :=
  match locate addr p.instances.length with
  | none => .fault .outsideWindow
  | some (k, off) => p.deliver k (op off)

/-- The next bus event takes place; with none, nothing changes. -/
def Platform.step (p : Platform) : Host.Outcome Platform Fault Refusal :=
  match p.bus with
  | [] => .next p
  | .write size addr v :: rest => Platform.accessAt { p with bus := rest } addr fun off => .write size off v
  | .read size addr :: rest => Platform.accessAt { p with bus := rest } addr fun off => .read size off
  | .resetOne k :: rest => Platform.deliver { p with bus := rest } k .reset
  | .resetAll :: rest => .next { instances := p.instances.map State.engineReset, bus := rest }

end Sys2Proof.Machine
end

