-- ==== Sys2Proof/WellFormed.lean ====
section
/-!
DEFINITION. The operand rules a command can be checked against without the engine's state: the bit of PUSHBIT
(43_streaming.md R152) and the range of the value fields of CONFIG (41_configuration.md R132). A command that
breaks one still decodes and executes: it faults, with ILLEGAL_BIT or ILLEGAL_CONFIG. The range of LDREG's
VALUE depends on CFG.W and is checked in its meaning alone (R158).
-/
namespace Sys2Proof

/-- POLY, INIT and XOROUT are W-bit values (R132). -/
def ConfigWord.wf (w0 : ConfigWord) (init xorout : Half) : Bool :=
  w0.width.fits w0.poly && w0.width.fits init && w0.width.fits xorout

/-- The command obeys every operand rule that does not depend on the state. -/
def Instr.wf : Instr → Bool
  | .config w0 ini xorout => w0.wf ini xorout
  | .pushbit data => decide (data.toNat ≤ 1)
  | .init | .wrbyte _ | .finish | .verify | .rdreg | .ldreg _ | .calculate _ => true

end Sys2Proof
end

