-- ==== Sys2Proof/Safety.lean ====
section
/-!
DEFINITION. The terms claims use: a state that takes a command, a good end of a run, the invariant, and the spec's
fault table (60_exceptions.md R192, R198) and session table (10_state.md R24) as functions of a command and a state,
written apart from the meanings.
-/
namespace Sys2Proof.Machine

/-- The next CMD word is taken as the first word of a command: FAULT = 0 and PEND = NONE (30_encoding.md R90). -/
def State.Ready (s : State) : Prop := s.faulted = false ∧ s.pend = .none

/-- What a claim about a run takes as a premise at its end: `FAULT = 0 and PEND = NONE` (70_reset R237). -/
def RunOk (s : State) : Prop := s.faulted = false ∧ s.pend = .none

/-- `k` steps of the machine, stopping at the first fault or refusal. -/
def run : Nat → State → Host.Outcome State Fault Refusal
  | 0, s => .next s
  | k + 1, s =>
    match step s with
    | .next t => run k t
    | .fault r => .fault r
    | .refused r => .refused r

/-- The host's stores of these words to CMD, in order (20_memory.md R55). -/
def cmds (ws : List Word) : List HostOp := ws.map HostOp.cmd

/-- Fault entry as R191 lists its writes, field by field. -/
def State.faultedBy (s : State) (code : FaultCode) (cmd0 : Word) : State :=
  { s with faulted := true, faultCode := code, faultCmd := cmd0, pend := .none }

/-- The reserved-bit check of a command (30_encoding.md R81): a first word with the opcode `op` and a nonzero
reserved field, `len` bits from bit `lo` up, raises ILLEGAL_COMMAND with that word as FAULT_CMD, whatever the
session state. -/
def RejectsReserved (op : BitVec 4) (lo len : Nat) : Prop :=
  ∀ (s : State) (w : Word) (rest : List HostOp), s.Ready → s.host = HostOp.cmd w :: rest →
    w.extractLsb' 28 4 = op → w.extractLsb' lo len ≠ 0#len →
    step s = .next ({ s with host := rest }.faultedBy .illegalCommand w)

/-! ### The invariant -/

/-- Every value field is a W-bit value (R23, R132). -/
def Cfg.wf (c : Cfg) : Bool := c.width.fits c.poly && c.width.fits c.init && c.width.fits c.xorout

/-- CFG is a configuration, and R is a W-bit value (R25). -/
def Session.wf : Session → Bool
  | .unconfigured => true
  | .active c r => c.wf && c.width.fits r
  | .finished c => c.wf

/-- In CALCDATA(rem, T, len): a configuration exists, T is a W-bit value (R31) and 1 ≤ rem ≤ len (R30). -/
def State.pendWf (s : State) : Bool :=
  match s.pend with
  | .none => true
  | .cfgw1 _ => true
  | .calcData rem t len =>
    match s.cfg? with
    | none => false
    | some c => c.width.fits t && decide (1 ≤ rem) && decide (rem ≤ len.toNat)

/-- A faulted engine shows a code and has no command in progress (R191); an engine that has not faulted shows code
and command 0 (R29). -/
def State.faultWf (s : State) : Bool :=
  if s.faulted then !(s.faultCode == .none) && s.pend == .none
  else s.faultCode == .none && s.faultCmd == 0#32

/-- The invariant of the machine: widths, PEND, the fault record, and RESULT = 0 while RV = 0 (R27). -/
def State.inv (s : State) : Bool :=
  s.session.wf && s.pendWf && s.faultWf && (s.rv || s.result == 0#16)

/-! ### The spec's fault table -/

/-- The commands that read R (R194). -/
def Instr.readsReg : Instr → Bool
  | .pushbit _ | .wrbyte _ | .finish | .verify | .rdreg => true
  | .config _ _ _ | .init | .ldreg _ | .calculate _ => false

/-- The one operand check of a command, level 4 of R198, under the configuration `c` it reads. -/
def Instr.operandFault (c : Cfg) : Instr → Option FaultCode
  | .pushbit data => if 2 ≤ data.toNat then some .illegalBit else none
  | .ldreg value => if c.width = .w8 ∧ 0xFF < value.toNat then some .illegalOperand else none
  | .verify => if Config.verifyGuard = true ∧ ¬(c.refin = false ∧ c.refout = false ∧ c.xorout = 0#16) then some .verifyUnsupported else none
  | .config _ _ _ | .init | .wrbyte _ | .finish | .rdreg | .calculate _ => none

/-- The fault a decoded command raises, none if it is accepted: levels 2 to 4 of R198 in order. CONFIG has only its
own check (R131, R132). -/
def faultOf (i : Instr) (s : State) : Option FaultCode :=
  match i with
  | .config w0 ini xo =>
    if w0.width = .w8 ∧ (0xFF < w0.poly.toNat ∨ 0xFF < ini.toNat ∨ 0xFF < xo.toNat) then some .illegalConfig else none
  | i =>
    match s.session with
    | .unconfigured => some .noConfig
    | .finished c => if Instr.readsReg i then some .regConsumed else Instr.operandFault c i
    | .active c _ => Instr.operandFault c i

/-- The session state after an accepted command (the table of R24), as STATUS.SESSION shows it. -/
def sessionAfter (i : Instr) (before : BitVec 2) : BitVec 2 :=
  match i with
  | .config _ _ _ | .init | .ldreg _ => 1#2
  | .pushbit _ | .wrbyte _ | .rdreg => 1#2
  | .finish | .verify => 2#2
  | .calculate _ => before

/-! ### A platform of several instances -/

/-- The one instance the next bus event is for, none if it is for all of them or for no instance. -/
def Platform.target (p : Platform) : Option Nat :=
  match p.bus with
  | [] => none
  | .write _ addr _ :: _ => (locate addr p.instances.length).map Prod.fst
  | .read _ addr :: _ => (locate addr p.instances.length).map Prod.fst
  | .resetOne k :: _ => some k
  | .resetAll :: _ => none

end Sys2Proof.Machine
end

