-- ==== Sys2Proof/Certificates/Slice0/Obligations.lean ====
section
/-!
DEFINITION. The statements about the model. Each docstring names the rule of spec/ it comes from; a clause that is
the model's own choice says so and names its log entry.
-/
open Sys2Proof
open Sys2Proof.Machine

/-! ### Encoding -/

/-- Decoding the words of any command gives that command back, with every operand at every value, and leaves the
words after it (R72 to R79, R83). -/
def Obligations.DecodeOfEncode : Prop :=
  ∀ (i : Instr) (ws : List Word), decode (encode i ++ ws) = .ok (i, ws)

/-- Words that decode are the encoding of what they decode to, followed by the rest: every command has one encoding,
and the decoder drops no bit (R72 to R79, R81). -/
def Obligations.EncodeOfDecode : Prop :=
  ∀ (ws rest : List Word) (i : Instr), decode ws = .ok (i, rest) → ws = encode i ++ rest

/-- "A first word w selects a command when `(w & mask) == match`" (R79), for the nine rows of the table. -/
def Obligations.SelectAgreesWithOpcodeTable : Prop :=
  ∀ (w : Word) (op : Opcode), select w = .ok op ↔ w &&& op.mask = op.pattern

/-- Every first word matches exactly one row of R79, with its opcode in [31:28], or it raises ILLEGAL_COMMAND with
itself as FAULT_CMD when the engine takes it (R82); one with a reserved opcode always does (R80). -/
def Obligations.FirstWordMatchesOneRowOrFaults : Prop :=
  ∀ (s : State) (w : Word) (rest : List HostOp), s.Ready → s.host = HostOp.cmd w :: rest →
    ((∃! op : Opcode, w &&& op.mask = op.pattern ∧ w.extractLsb' 28 4 = op.code) ∨
      ((∀ op : Opcode, w &&& op.mask ≠ op.pattern) ∧
        step s = .next ({ s with host := rest }.faultedBy .illegalCommand w))) ∧
    (w.extractLsb' 28 4 = 0x0#4 ∨ 0xA#4 ≤ w.extractLsb' 28 4 →
      step s = .next ({ s with host := rest }.faultedBy .illegalCommand w))

/-- Words written out from the spec's encodings decode to what they stand for (R73 to R77, R85). -/
def Obligations.SpecWordsDecode : Prop :=
  decode [0x10060039#32, 0x00FF0012#32]
      = .ok (.config { refout := true, refin := true, width := .w8, poly := 0x0039#16 } 0x00FF#16 0x0012#16, []) ∧
  decode [0x20000000#32] = .ok (.init, []) ∧
  decode [0x30000001#32] = .ok (.pushbit 0x01#8, []) ∧
  decode [0x40000031#32] = .ok (.wrbyte 0x31#8, []) ∧
  decode [0x80002672#32] = .ok (.ldreg 0x2672#16, []) ∧
  decode [0x90000009#32, 0x34333231#32] = .ok (.calculate 9#28, [0x34333231#32])

/-- Each of the nine lines of R85 and of the pseudo-instructions of R86 gives the words of its row, and an operand that
does not fit its field is an assembly error. That POLY, INIT and XOROUT are fields of 16 bits on a `w8` line too, so that
a value from 0x100 to 0xFFFF is assembled and faults when executed, is the model's reading (log entry 12, DEDUCED), as is
starting from operands instead of text. -/
def Obligations.AssemblerEncodesTheTable : Prop :=
  (∀ (wd : Width) (p n x : Nat) (refin refout : Bool),
    assemble (.config wd p n x refin refout) =
      if p < 2 ^ 16 ∧ n < 2 ^ 16 ∧ x < 2 ^ 16 then
        some [0x10000000#32 ||| (if refout then 0x00040000#32 else 0#32) ||| (if refin then 0x00020000#32 else 0#32) |||
            (if wd = .w16 then 0x00010000#32 else 0#32) ||| BitVec.ofNat 32 p,
          BitVec.ofNat 32 (n * 2 ^ 16 + x)]
      else none) ∧
  assemble .init = some [0x20000000#32] ∧
  (∀ b, assemble (.pushbit b) = if b ≤ 0xFF then some [0x30000000#32 ||| BitVec.ofNat 32 b] else none) ∧
  (∀ b, assemble (.wrbyte b) = if b ≤ 0xFF then some [0x40000000#32 ||| BitVec.ofNat 32 b] else none) ∧
  assemble .finish = some [0x50000000#32] ∧
  assemble .verify = some [0x60000000#32] ∧
  assemble .rdreg = some [0x70000000#32] ∧
  (∀ v, assemble (.ldreg v) = if v ≤ 0xFFFF then some [0x80000000#32 ||| BitVec.ofNat 32 v] else none) ∧
  (∀ len ws, assemble (.calculate len ws) =
    if len ≤ 2 ^ 28 - 1 then some ((0x90000000#32 ||| BitVec.ofNat 32 len) :: ws) else none) ∧
  assemble (.configNamed .crc16Xmodem) = some [0x10011021#32, 0x00000000#32] ∧
  assemble (.configNamed .crc16Genibus) = some [0x10011021#32, 0xFFFFFFFF#32] ∧
  assemble (.configNamed .crc16Cdma2000) = some [0x1001C867#32, 0xFFFF0000#32] ∧
  assemble (.configNamed .crc8) = some [0x10000007#32, 0x00000000#32] ∧
  assemble (.configNamed .crc8Cdma2000) = some [0x1000009B#32, 0x00FF0000#32] ∧
  assemble (.configNamed .crc8Darc) = some [0x10060039#32, 0x00000000#32] ∧
  assemble (.configNamed .crc8DvbS2) = some [0x100000D5#32, 0x00000000#32] ∧
  (∀ bytes, assemble (.write bytes) = some (bytes.map fun b => 0x40000000#32 ||| b.setWidth 32)) ∧
  (∀ d, assemble (.pushbyteN d) =
    some ([7, 6, 5, 4, 3, 2, 1, 0].map fun k => 0x30000000#32 ||| (if d.getLsbD k then 1#32 else 0#32))) ∧
  (∀ d, assemble (.pushbyteR d) =
    some ([0, 1, 2, 3, 4, 5, 6, 7].map fun k => 0x30000000#32 ||| (if d.getLsbD k then 1#32 else 0#32))) ∧
  (∀ c, assemble (.append8 c) = some [0x40000000#32 ||| c.setWidth 32]) ∧
  (∀ c, assemble (.append16 c) =
    some [0x40000000#32 ||| (c.extractLsb' 8 8).setWidth 32, 0x40000000#32 ||| (c.extractLsb' 0 8).setWidth 32]) ∧
  (∀ bytes, assemble (.calcBytes bytes) =
    if bytes.length ≤ 2 ^ 28 - 1 then some ((0x90000000#32 ||| BitVec.ofNat 32 bytes.length) :: packWords bytes)
    else none)

/-- The payload words an assembled message is packed into: ceil(n/4) of them, byte j in bits
[8(j mod 4)+7 : 8(j mod 4)] of word floor(j/4), and 0 in the unused bytes of the last word (R142, R77, R86). -/
def Obligations.PackedPayloadHoldsTheMessage : Prop :=
  ∀ m : List Byte, (packWords m).length = (m.length + 3) / 4 ∧
    (∀ j b, m[j]? = some b → (packWords m)[j / 4]?.map (fun w => w.extractLsb' (8 * (j % 4)) 8) = some b) ∧
    (∀ j, m.length ≤ j → j < 4 * (packWords m).length →
      (packWords m)[j / 4]?.map (fun w => w.extractLsb' (8 * (j % 4)) 8) = some 0#8)

/-! ### The step -/

/-- The command processor (R90): a faulted engine discards the word, CONFIG's second word completes the CONFIG, a
word while a CALC runs is payload, and else the word is decoded: a whole command executes, a CONFIG first word
waits, and a word that spells nothing raises ILLEGAL_COMMAND. -/
def Obligations.StepRunsDecodedCommand : Prop :=
  ∀ (s : State) (w : Word) (rest : List HostOp), s.host = HostOp.cmd w :: rest →
    (s.faulted = true → step s = .next { s with host := rest }) ∧
    (∀ w0, s.faulted = false → s.pend = .cfgw1 w0 →
      step s = exec (.config w0 (w.extractLsb' 16 16) (w.extractLsb' 0 16)) { s with host := rest, pend := .none }) ∧
    (∀ rem t len, s.faulted = false → s.pend = .calcData rem t len →
      step s = .next (calcPayload rem t len w { s with host := rest })) ∧
    (∀ i, s.Ready → decode [w] = .ok (i, []) → step s = exec i { s with host := rest }) ∧
    (∀ w0, s.Ready → w = ConfigWord.toWord w0 → step s = .next { s with host := rest, pend := .cfgw1 w0 }) ∧
    (s.Ready → decode [w] = .error .reservedOpcode ∨ decode [w] = .error .reservedBits →
      step s = .next ({ s with host := rest }.faultedBy .illegalCommand w))

/-- Stepping over the words of any command, from a state that takes a command, is executing it: a CONFIG's two words
together are the whole CONFIG. For a CALC these are the words before its message data. -/
def Obligations.StepsOverEncodingExecute : Prop :=
  ∀ (i : Instr) (s : State) (rest : List HostOp), s.Ready → s.host = cmds (encode i) ++ rest →
    run (encode i).length s = exec i { s with host := rest }

/-- A command placed by `withFetchWord` is what the next step runs. The placing is the model's own (log entry 3). -/
def Obligations.PlacedCommandRunsNext : Prop :=
  ∀ (s : State) (nbits w : Nat) (i : Instr), s.faulted = false → decodeTableWord nbits w = some i →
    step (s.withFetchWord nbits w) = exec i { s with pend := .none }

/-- While FAULT = 1, no CMD write and no other access but reset changes the engine, and reads go on returning the
registers of R54 (R197). -/
def Obligations.FaultedEngineChangesOnlyByReset : Prop :=
  ∀ (s t : State), s.faulted = true → step s = .next t →
    (∃ rest, s.host = .reset :: rest) ∨
    (∃ reads, t = { s with host := s.host.tail, reads := reads } ∧
      ((reads = s.reads ∧ ∀ size off rest, s.host ≠ .read size off :: rest) ∨
        ∃ rest r, s.host = .read 4 (WindowReg.offset r) :: rest ∧ reads = s.reads ++ [readReg r s]))

/-- With no access outstanding the engine keeps all its state (R211); the idle step is the model's own reading of
"idle" (log entry 1). -/
def Obligations.IdleEngineKeepsItsState : Prop :=
  ∀ s : State, s.host = [] → step s = .next s

/-- Reset sets every element to the values of R231, from any state, also with a command in progress or a fault
(R232, R201); `State.reset` holds those values. -/
def Obligations.ResetSetsEveryElement : Prop :=
  let isReset : State → Prop := fun t =>
    t.cfg? = none ∧ t.session.code = 0#2 ∧ t.reg? = none ∧ t.pend = .none ∧ t.transient? = none ∧ t.result = 0#16 ∧
      t.rv = false ∧ t.faulted = false ∧ t.faultCode.code = 0#4 ∧ t.faultCmd = 0#32 ∧ t.status = 0#32 ∧
      t.cfg0 = 0#32 ∧ t.cfg1 = 0#32
  isReset State.reset ∧
    ∀ (s : State) (rest : List HostOp), s.host = .reset :: rest → ∃ t, step s = .next t ∧ isReset t

/-! ### The register window -/

/-- What a host load of each register returns, with no effect on the engine (R54, R55, R56, R57, R59); the reserved
offsets are in the statement after this one. -/
def Obligations.WindowReadsHaveNoSideEffect : Prop :=
  ∀ (s : State) (off : Nat) (rest : List HostOp), s.host = .read 4 off :: rest →
    (off = 0x00 → step s = .next { s with host := rest, reads := s.reads ++ [0#32] }) ∧
    (off = 0x04 → step s = .next { s with host := rest, reads := s.reads ++ [s.result.setWidth 32] }) ∧
    (off = 0x08 → step s = .next { s with host := rest, reads := s.reads ++ [s.status] }) ∧
    (off = 0x0C → step s = .next { s with host := rest, reads := s.reads ++ [s.faultCmd] }) ∧
    (off = 0x10 → step s = .next { s with host := rest, reads := s.reads ++ [s.cfg0] }) ∧
    (off = 0x14 → step s = .next { s with host := rest, reads := s.reads ++ [s.cfg1] })

/-- Host writes to every register but CMD are ignored, and the reserved offsets read 0 (R58). -/
def Obligations.WritesBesideCmdAreIgnored : Prop :=
  (∀ (s : State) (off : Nat) (v : Word) (rest : List HostOp), s.host = .write 4 off v :: rest →
    off < 0x20 → off % 4 = 0 → off ≠ 0x00 → step s = .next { s with host := rest }) ∧
  (∀ (s : State) (off : Nat) (rest : List HostOp), s.host = .read 4 off :: rest → off = 0x18 ∨ off = 0x1C →
    step s = .next { s with host := rest, reads := s.reads ++ [0#32] })

/-- An access of another width, or at an offset of the window that is no multiple of 4, is refused (R53). -/
def Obligations.UndefinedAccessIsRefused : Prop :=
  ∀ (s : State) (size off : Nat) (v : Word) (rest : List HostOp), off < 0x20 → size ≠ 4 ∨ off % 4 ≠ 0 →
    (s.host = .read size off :: rest → step s = .refused .undefinedAccess) ∧
    (s.host = .write size off v :: rest → step s = .refused .undefinedAccess)

/-- Every defined access completes, from every state (R53, R54, R58, R241): a 32-bit access at a multiple of 4 of
the window, and reset. The engine never stops on a command word. -/
def Obligations.DefinedAccessCompletes : Prop :=
  ∀ (s : State) (op : HostOp) (rest : List HostOp), s.host = op :: rest →
    (op = .reset ∨ ∃ off, off < 0x20 ∧ off % 4 = 0 ∧ (op = .read 4 off ∨ ∃ v, op = .write 4 off v)) →
    ∃ t, step s = .next t ∧ t.host = rest

/-- An access past the window stops the run: the engine's only address space is the window (R51, R52). That the run
stops there is the model's choice (log entry 6). -/
def Obligations.AccessOutsideWindowStops : Prop :=
  ∀ (s : State) (size off : Nat) (v : Word) (rest : List HostOp), 0x20 ≤ off →
    (s.host = .read size off :: rest → step s = .fault .outsideWindow) ∧
    (s.host = .write size off v :: rest → step s = .fault .outsideWindow)

/-- STATUS (R28), field by field, with the number of each fault code (R192). -/
def Obligations.StatusFields : Prop :=
  ∀ s : State,
    s.status.extractLsb' 0 2 = (match s.session with | .unconfigured => 0#2 | .active _ _ => 1#2 | .finished _ => 2#2) ∧
    s.status.getLsbD 2 = s.faulted ∧
    s.status.getLsbD 3 = s.rv ∧
    (s.status.getLsbD 4 = true ↔ s.pend ≠ .none) ∧
    (s.status.getLsbD 5 = true ↔ ∃ c, s.cfg? = some c ∧ c.refin = false ∧ c.refout = false ∧ c.xorout = 0#16) ∧
    s.status.extractLsb' 6 2 = 0#2 ∧
    (s.faulted = false → s.status.extractLsb' 8 4 = 0#4) ∧
    (s.faulted = true → s.status.extractLsb' 8 4 =
      (match s.faultCode with
        | .none => 0#4
        | .illegalCommand => 1#4
        | .noConfig => 2#4
        | .regConsumed => 3#4
        | .illegalBit => 4#4
        | .illegalConfig => 5#4
        | .illegalOperand => 6#4
        | .verifyUnsupported => 7#4)) ∧
    s.status.extractLsb' 12 20 = 0#20

/-- CFG0 and CFG1 (R32), field by field. -/
def Obligations.ConfigurationReadback : Prop :=
  (∀ s : State, s.session = .unconfigured → s.cfg0 = 0#32 ∧ s.cfg1 = 0#32) ∧
  (∀ (s : State) (c : Cfg), s.cfg? = some c →
    s.cfg0.extractLsb' 19 13 = 0#13 ∧ s.cfg0.getLsbD 18 = c.refout ∧ s.cfg0.getLsbD 17 = c.refin ∧
    (s.cfg0.getLsbD 16 = true ↔ c.width = .w16) ∧ s.cfg0.extractLsb' 0 16 = c.poly ∧
    s.cfg1.extractLsb' 16 16 = c.init ∧ s.cfg1.extractLsb' 0 16 = c.xorout)

/-! ### The commands: result, completion and frame

Each equation gives the whole next state, so everything it does not name is unchanged. -/

/-- CONFIG over its two words (R131): a reserved bit faults at once; else PEND waits; the second word faults with
FAULT_CMD = w0 when W = 8 and a high byte is nonzero, and else sets CFG, R and S. -/
def Obligations.ConfigTakesTwoWords : Prop :=
  RejectsReserved 1#4 19 9 ∧
  ∀ (s : State) (w0 w1 : Word) (rest : List HostOp), s.Ready → s.host = HostOp.cmd w0 :: HostOp.cmd w1 :: rest →
    w0.extractLsb' 28 4 = 1#4 → w0.extractLsb' 19 9 = 0#9 →
    ∃ c1 : ConfigWord, c1.toWord = w0 ∧
      step s = .next { s with host := HostOp.cmd w1 :: rest, pend := .cfgw1 c1 } ∧
      step { s with host := HostOp.cmd w1 :: rest, pend := .cfgw1 c1 } =
        if w0.getLsbD 16 = false ∧ (w0.extractLsb' 8 8 ≠ 0#8 ∨ w1.extractLsb' 24 8 ≠ 0#8 ∨ w1.extractLsb' 8 8 ≠ 0#8) then
          .next ({ s with host := rest }.faultedBy .illegalConfig w0)
        else
          .next { s with
            host := rest
            session := .active
              { width := if w0.getLsbD 16 then .w16 else .w8
                poly := w0.extractLsb' 0 16
                init := w1.extractLsb' 16 16
                xorout := w1.extractLsb' 0 16
                refin := w0.getLsbD 17
                refout := w0.getLsbD 18 }
              (w1.extractLsb' 16 16) }

/-- CONFIG, executed (R131), and its range check (R132): for W = 8 a value field above 0xFF faults and nothing is
truncated; for W = 16 every value is legal. -/
def Obligations.ConfigSetsConfigurationInRange : Prop :=
  (∀ (s : State) (w0 : ConfigWord) (ini xo : Half),
    w0.width = .w16 ∨ (w0.poly ≤ 0xFF#16 ∧ ini ≤ 0xFF#16 ∧ xo ≤ 0xFF#16) →
    exec (.config w0 ini xo) s =
      .next { s with session := .active (Cfg.mk w0.width w0.poly ini xo w0.refin w0.refout) ini }) ∧
  (∀ (s : State) (w0 : ConfigWord) (ini xo : Half),
    w0.width = .w8 → 0xFF#16 < w0.poly ∨ 0xFF#16 < ini ∨ 0xFF#16 < xo →
    exec (.config w0 ini xo) s = .next (s.faultedBy .illegalConfig w0.toWord))

/-- INIT (R151). -/
def Obligations.InitStartsNewRegister : Prop :=
  RejectsReserved 2#4 0 28 ∧
  (∀ s : State, s.session = .unconfigured → exec .init s = .next (s.faultedBy .noConfig 0x20000000#32)) ∧
  (∀ (s : State) (c : Cfg), s.cfg? = some c → exec .init s = .next { s with session := .active c c.init })

/-- PUSHBIT (R152): the checks in order, then `R <- bit_fold(R, w[0])`. -/
def Obligations.PushbitFoldsOneBit : Prop :=
  RejectsReserved 3#4 8 20 ∧
  (∀ (s : State) (d : Byte), s.session = .unconfigured →
    exec (.pushbit d) s = .next (s.faultedBy .noConfig (0x30000000#32 ||| d.setWidth 32))) ∧
  (∀ (s : State) (d : Byte) (c : Cfg), s.session = .finished c →
    exec (.pushbit d) s = .next (s.faultedBy .regConsumed (0x30000000#32 ||| d.setWidth 32))) ∧
  (∀ (s : State) (d : Byte) (c : Cfg) (r : Half), s.session = .active c r → 1 < d.toNat →
    exec (.pushbit d) s = .next (s.faultedBy .illegalBit (0x30000000#32 ||| d.setWidth 32))) ∧
  (∀ (s : State) (x : Bool) (c : Cfg) (r : Half), s.session = .active c r →
    exec (.pushbit (if x then 1#8 else 0#8)) s = .next { s with session := .active c (c.bitFold r x) })

/-- WRBYTE (R153): the checks in order, then `R <- byte_fold_bits(R, w[7:0])`. -/
def Obligations.WrbyteFoldsOneByte : Prop :=
  RejectsReserved 4#4 8 20 ∧
  (∀ (s : State) (d : Byte), s.session = .unconfigured →
    exec (.wrbyte d) s = .next (s.faultedBy .noConfig (0x40000000#32 ||| d.setWidth 32))) ∧
  (∀ (s : State) (d : Byte) (c : Cfg), s.session = .finished c →
    exec (.wrbyte d) s = .next (s.faultedBy .regConsumed (0x40000000#32 ||| d.setWidth 32))) ∧
  (∀ (s : State) (d : Byte) (c : Cfg) (r : Half), s.session = .active c r →
    exec (.wrbyte d) s = .next { s with session := .active c (c.byteFoldBits r d) })

/-- FINISH (R154): the checks in order, then `respond(out(R))` and S <- FINISHED. -/
def Obligations.FinishRespondsAndConsumes : Prop :=
  RejectsReserved 5#4 0 28 ∧
  (∀ s : State, s.session = .unconfigured → exec .finish s = .next (s.faultedBy .noConfig 0x50000000#32)) ∧
  (∀ (s : State) (c : Cfg), s.session = .finished c → exec .finish s = .next (s.faultedBy .regConsumed 0x50000000#32)) ∧
  (∀ (s : State) (c : Cfg) (r : Half), s.session = .active c r →
    exec .finish s = .next { s with session := .finished c, result := c.out r, rv := true })

/-- VERIFY (R155) for either value of VERIFY_GUARD (R156). -/
def Obligations.VerifyTestsForZeroAndConsumes : Prop :=
  RejectsReserved 6#4 0 28 ∧
  (∀ s : State, s.session = .unconfigured → exec .verify s = .next (s.faultedBy .noConfig 0x60000000#32)) ∧
  (∀ (s : State) (c : Cfg), s.session = .finished c → exec .verify s = .next (s.faultedBy .regConsumed 0x60000000#32)) ∧
  (∀ (s : State) (c : Cfg) (r : Half), s.session = .active c r →
    c.refin = false ∧ c.refout = false ∧ c.xorout = 0#16 →
    exec .verify s = .next { s with session := .finished c, result := if r = 0#16 then 1#16 else 0#16, rv := true }) ∧
  (∀ (s : State) (c : Cfg) (r : Half), s.session = .active c r →
    ¬(c.refin = false ∧ c.refout = false ∧ c.xorout = 0#16) →
    exec .verify s =
      if Config.verifyGuard then .next (s.faultedBy .verifyUnsupported 0x60000000#32)
      else .next { s with session := .finished c, result := if r = 0#16 then 1#16 else 0#16, rv := true })

/-- RDREG (R157): `respond(R)`; R and S are unchanged. -/
def Obligations.RdregRespondsWithRegister : Prop :=
  RejectsReserved 7#4 0 28 ∧
  (∀ s : State, s.session = .unconfigured → exec .rdreg s = .next (s.faultedBy .noConfig 0x70000000#32)) ∧
  (∀ (s : State) (c : Cfg), s.session = .finished c → exec .rdreg s = .next (s.faultedBy .regConsumed 0x70000000#32)) ∧
  (∀ (s : State) (c : Cfg) (r : Half), s.session = .active c r →
    exec .rdreg s = .next { s with result := r, rv := true })

/-- LDREG (R158): the checks in order, then R <- VALUE and S <- ACTIVE. -/
def Obligations.LdregSetsRegister : Prop :=
  RejectsReserved 8#4 16 12 ∧
  (∀ (s : State) (v : Half), s.session = .unconfigured →
    exec (.ldreg v) s = .next (s.faultedBy .noConfig (0x80000000#32 ||| v.setWidth 32))) ∧
  (∀ (s : State) (v : Half) (c : Cfg), s.cfg? = some c → c.width = .w8 → 0xFF < v.toNat →
    exec (.ldreg v) s = .next (s.faultedBy .illegalOperand (0x80000000#32 ||| v.setWidth 32))) ∧
  (∀ (s : State) (v : Half) (c : Cfg), s.cfg? = some c → c.width = .w16 ∨ v.toNat ≤ 0xFF →
    exec (.ldreg v) s = .next { s with session := .active c v })

/-- CALC's first word (R141): NO_CONFIG, or the answer for LEN = 0, or PEND <- CALCDATA(len, CFG.INIT, len). -/
def Obligations.CalcStartsOrAnswersEmpty : Prop :=
  (∀ (s : State) (len : Len), s.session = .unconfigured →
    exec (.calculate len) s = .next (s.faultedBy .noConfig (0x90000000#32 ||| len.setWidth 32))) ∧
  (∀ (s : State) (c : Cfg), s.cfg? = some c →
    exec (.calculate 0#28) s = .next { s with result := c.out c.init, rv := true }) ∧
  (∀ (s : State) (len : Len) (c : Cfg), s.cfg? = some c → len ≠ 0#28 →
    exec (.calculate len) s = .next { s with pend := .calcData len.toNat c.init len })

/-- A CALC payload word (R143): the next min(rem, 4) bytes, least significant first, are folded into T; the last one
answers. -/
def Obligations.CalcPayloadWordFolds : Prop :=
  ∀ (s : State) (w : Word) (rest : List HostOp) (c : Cfg) (rem : Nat) (t : Half) (len : Len),
    s.faulted = false → s.pend = .calcData rem t len → s.cfg? = some c → s.host = HostOp.cmd w :: rest →
    (rem ≤ 4 → step s = .next { s with
      host := rest
      pend := .none
      result := c.out (c.fold t ([w.extractLsb' 0 8, w.extractLsb' 8 8, w.extractLsb' 16 8, w.extractLsb' 24 8].take rem))
      rv := true }) ∧
    (4 < rem → step s = .next { s with
      host := rest
      pend := .calcData (rem - 4) (c.fold t [w.extractLsb' 0 8, w.extractLsb' 8 8, w.extractLsb' 16 8, w.extractLsb' 24 8]) len })

/-- What each command leaves unchanged, over all nine, in every state: the host's side always, CFG but for CONFIG,
PEND and the fault record but for a fault and a starting CALC, R and S but for the commands that write them, RESULT
and RV but for the responders (R25, R27, R33, R133). -/
def Obligations.CommandFrames : Prop :=
  ∀ (i : Instr) (s t : State), exec i s = .next t →
    t.host = s.host ∧ t.reads = s.reads ∧
    (i.opcode ≠ .config → t.cfg? = s.cfg?) ∧
    (faultOf i s = none → t.faulted = s.faulted ∧ t.faultCode = s.faultCode ∧ t.faultCmd = s.faultCmd) ∧
    (faultOf i s = none → i.opcode ≠ .calculate ∨ i = .calculate 0#28 → t.pend = s.pend) ∧
    (i.opcode = .rdreg ∨ i.opcode = .calculate ∨ faultOf i s ≠ none → t.session = s.session) ∧
    ((i.opcode ≠ .finish ∧ i.opcode ≠ .verify ∧ i.opcode ≠ .rdreg ∧ i ≠ .calculate 0#28) ∨ faultOf i s ≠ none →
      t.result = s.result ∧ t.rv = s.rv)

/-! ### Faults -/

/-- Which fault is raised, and that nothing else of the command happens: the first check of R198 that applies, recorded
as R191 says with the command's first word. A word that spells no command raises ILLEGAL_COMMAND before every other
check, whatever the session; a command that no check applies to leaves the fault record alone. -/
def Obligations.FirstApplicableFaultIsRaised : Prop :=
  (∀ (s : State) (w : Word) (rest : List HostOp), s.Ready → s.host = HostOp.cmd w :: rest →
    (∀ op : Opcode, w &&& op.mask ≠ op.pattern) →
    step s = .next ({ s with host := rest }.faultedBy .illegalCommand w)) ∧
  ∀ (i : Instr) (s : State),
    (∀ code, faultOf i s = some code → exec i s = .next (s.faultedBy code i.firstWord)) ∧
    (faultOf i s = none → ∃ t, exec i s = .next t ∧ t.faulted = s.faulted ∧ t.faultCode = s.faultCode ∧
      t.faultCmd = s.faultCmd)

/-- A step that enters the faulted state records a code and the first word of the faulting command, clears PEND, and
changes nothing else (R191, R90). -/
def Obligations.FaultEntryChangesNothingElse : Prop :=
  ∀ s t : State, s.inv = true → step s = .next t → s.faulted = false → t.faulted = true →
    ∃ (code : FaultCode) (w : Word) (rest : List HostOp), s.host = HostOp.cmd w :: rest ∧ code ≠ .none ∧
      ((s.pend = .none ∧ t = { s with host := rest }.faultedBy code w) ∨
        ∃ w0, s.pend = .cfgw1 w0 ∧ t = { s with host := rest }.faultedBy code w0.toWord)

/-- CALC payload words never fault (R141, R90): in a state of the invariant a CMD word while a CALC runs leaves FAULT
clear and S, CFG and R untouched. -/
def Obligations.PayloadWordsNeverFault : Prop :=
  ∀ (s t : State) (w : Word) (rest : List HostOp) (rem : Nat) (x : Half) (len : Len), s.inv = true →
    s.pend = .calcData rem x len → s.host = HostOp.cmd w :: rest → step s = .next t →
    t.faulted = false ∧ t.session = s.session

/-- Only reset clears a fault or RV (R27, R197, R201). -/
def Obligations.OnlyResetClearsFaultAndResponse : Prop :=
  ∀ s t : State, step s = .next t → (∀ rest, s.host ≠ .reset :: rest) →
    (s.faulted = true → t.faulted = true ∧ t.faultCode = s.faultCode ∧ t.faultCmd = s.faultCmd) ∧
    (s.rv = true → t.rv = true)

/-! ### Rules about the whole machine -/

/-- The invariant: value fields, R and T are W bits wide, PEND is in range, the fault record is consistent, and
RESULT is 0 until the first response. Every step keeps it. -/
def Obligations.EveryStepKeepsInvariant : Prop :=
  ∀ s t : State, s.inv = true → step s = .next t → t.inv = true

/-- The reset state meets the invariant. -/
def Obligations.ResetMeetsInvariant : Prop := State.reset.inv = true

/-- Session transitions (R24): an accepted command takes S where the table says, a fault leaves it, UNCONFIGURED is
left only by the second word of a CONFIG, stored to CMD, and reached only by reset. -/
def Obligations.SessionTransitions : Prop :=
  (∀ (i : Instr) (s t : State), exec i s = .next t →
    (faultOf i s = none → t.session.code = sessionAfter i s.session.code) ∧
    (faultOf i s ≠ none → t.session = s.session)) ∧
  (∀ s t : State, step s = .next t → (∀ rest, s.host ≠ .reset :: rest) →
    (t.session = .unconfigured → s.session = .unconfigured) ∧
    (s.session = .unconfigured → t.session ≠ .unconfigured →
      ∃ w0 w rest, s.faulted = false ∧ s.pend = .cfgw1 w0 ∧ s.host = HostOp.cmd w :: rest))

/-- CFG keeps its value until the next accepted CONFIG or reset (R133). -/
def Obligations.OnlyConfigAndResetChangeConfiguration : Prop :=
  ∀ s t : State, step s = .next t → t.cfg? ≠ s.cfg? →
    (∃ rest, s.host = .reset :: rest) ∨
    (∃ w0 w rest, s.faulted = false ∧ s.pend = .cfgw1 w0 ∧ s.host = HostOp.cmd w :: rest ∧ t.faulted = false ∧
      t.cfg? = some (Cfg.mk w0.width w0.poly (w.extractLsb' 16 16) (w.extractLsb' 0 16) w0.refin w0.refout))

/-- For W = 8 every response is a byte zero-extended (R27): the responses of FINISH, VERIFY, RDREG and an empty CALC when
they are executed, and that of any other CALC at the step on its last payload word (R143). -/
def Obligations.EightBitResponsesAreZeroExtended : Prop :=
  (∀ (i : Instr) (s t : State) (c : Cfg), s.inv = true → s.cfg? = some c → c.width = .w8 → faultOf i s = none →
    i.opcode = .finish ∨ i.opcode = .verify ∨ i.opcode = .rdreg ∨ i = .calculate 0#28 →
    exec i s = .next t → t.rv = true ∧ t.result.extractLsb' 8 8 = 0#8) ∧
  (∀ (s t : State) (c : Cfg) (w : Word) (rest : List HostOp) (rem : Nat) (x : Half) (len : Len), s.inv = true →
    s.cfg? = some c → c.width = .w8 → s.pend = .calcData rem x len → rem ≤ 4 → s.host = HostOp.cmd w :: rest →
    step s = .next t → t.rv = true ∧ t.result.extractLsb' 8 8 = 0#8)

/-! ### The datapath -/

/-- Bit i of `rev_n(v)` is bit n-1-i of v (R101). -/
def Obligations.ReversalMirrorsBits : Prop :=
  (∀ (v : Byte) (i : Nat), i < 8 → (rev8 v).getLsbD i = v.getLsbD (7 - i)) ∧
  (∀ (v : Half) (i : Nat), i < 16 → (rev16 v).getLsbD i = v.getLsbD (15 - i))

/-- `bit_fold(R, x)`, bit by bit (R107): bit i of the result is bit i-1 of R, XORed with bit i of POLY when the top
bit of R and x differ; the bits above W-1 are zero. -/
def Obligations.BitFoldBits : Prop :=
  ∀ (c : Cfg) (r : Half) (x : Bool) (i : Nat), c.wf = true →
    (c.bitFold r x).getLsbD i =
      if i < c.width.bits then
        (decide (i ≠ 0) && r.getLsbD (i - 1)) ^^ ((r.getLsbD (c.width.bits - 1) ^^ x) && c.poly.getLsbD i)
      else false

/-- `byte_fold_bits(R, b) = byte_fold(R, b)` for both widths, every W-bit POLY and R, every REFIN and b (R109). -/
def Obligations.BitwiseFoldEqualsByteFold : Prop :=
  ∀ (c : Cfg) (r : Half) (b : Byte), c.width.fits c.poly = true → c.width.fits r = true →
    c.byteFoldBits r b = c.byteFold r b

/-- `out(R)`: bit i is bit W-1-i of R if REFOUT and bit i of R if not, XORed with bit i of XOROUT (R111). -/
def Obligations.OutputReversesThenXors : Prop :=
  ∀ (c : Cfg) (r : Half) (i : Nat), c.wf = true → c.width.fits r = true →
    (c.out r).getLsbD i =
      if i < c.width.bits then
        (if c.refout then r.getLsbD (c.width.bits - 1 - i) else r.getLsbD i) ^^ c.xorout.getLsbD i
      else false

/-- Linearity (R120): the fold is linear in register and message together, the output transform is affine. -/
def Obligations.FoldIsLinear : Prop :=
  (∀ (c : Cfg) (r1 r2 : Half) (m1 m2 : List Byte), m1.length = m2.length →
    c.fold (r1 ^^^ r2) (List.zipWith (fun a b => a ^^^ b) m1 m2) = c.fold r1 m1 ^^^ c.fold r2 m2) ∧
  (∀ (c : Cfg) (a b : Half), c.out (a ^^^ b) = c.out a ^^^ c.out b ^^^ c.xorout)

/-- The append-verify law (R114): for a verify-capable configuration and any INIT, folding a message and then its
checksum, most significant byte first, leaves the register zero. -/
def Obligations.AppendVerifyLaw : Prop :=
  ∀ (c : Cfg) (m : List Byte), c.wf = true → c.refin = false → c.refout = false → c.xorout = 0#16 →
    c.fold c.init (m ++ c.checksumBytes (c.out (c.fold c.init m))) = 0#16

/-- Sensitivity (R118): for each of the seven named configurations, flipping any single bit of the input changes the
checksum; and with POLY = 0 and W = 8 it does not, since every message of one byte or more gives `out(0)`. -/
def Obligations.SingleBitFlipChangesChecksum : Prop :=
  (∀ (n : NamedConfig) (before after : List Byte) (b : Byte) (k : Nat), k < 8 →
    n.cfg.out (n.cfg.fold n.cfg.init (before ++ (b ^^^ (1#8 <<< k)) :: after)) ≠
      n.cfg.out (n.cfg.fold n.cfg.init (before ++ b :: after))) ∧
  (∀ (c : Cfg) (b : Byte) (m : List Byte), c.width = .w8 → c.poly = 0#16 →
    c.out (c.fold c.init (b :: m)) = c.out 0#16)

/-- The algebraic reading (R121, from general knowledge there): with REFIN = 0 and G = x^W + POLY, the fold of a
message of n bytes is congruent to R·x^(8n) + M·x^W modulo G over GF(2). -/
def Obligations.FoldIsPolynomialRemainder : Prop :=
  ∀ (c : Cfg) (r : Half) (m : List Byte), c.wf = true → c.refin = false → c.width.fits r = true →
    let poly : Half → Polynomial (ZMod 2) := fun v =>
      ∑ i ∈ Finset.range c.width.bits, if v.getLsbD i then Polynomial.X ^ i else 0
    let byte : Byte → Polynomial (ZMod 2) := fun b =>
      ∑ i ∈ Finset.range 8, if b.getLsbD i then Polynomial.X ^ i else 0
    let message : Polynomial (ZMod 2) := m.foldl (fun p b => p * Polynomial.X ^ 8 + byte b) 0
    (Polynomial.X ^ c.width.bits + poly c.poly) ∣
      poly (c.fold r m) - (poly r * Polynomial.X ^ (8 * m.length) + message * Polynomial.X ^ c.width.bits)

/-! ### Runs of commands -/

/-- `WRITE M; FINISH` on a live register leaves RESULT = out(fold(R, M)) and consumes the register (R153, R154, R160,
R110). -/
def Obligations.StreamingRunGivesChecksum : Prop :=
  ∀ (s : State) (c : Cfg) (r : Half) (m : List Byte) (rest : List HostOp), s.Ready → s.session = .active c r →
    c.wf = true → c.width.fits r = true → s.host = cmds (writeWords m ++ encode .finish) ++ rest →
    run (m.length + 1) s = .next { s with
      host := rest, session := .finished c, result := c.out (c.fold r m), rv := true }

/-- A CALC with all its payload words leaves RESULT = out(fold(CFG.INIT, M)) and R, S and CFG as they were (R144,
R141); M is the first LEN bytes of the payload, so the unused bytes of the last word do not matter (R77). -/
def Obligations.CalcRunGivesChecksum : Prop :=
  ∀ (s : State) (c : Cfg) (len : Len) (ws : List Word) (rest : List HostOp), s.Ready → s.cfg? = some c →
    ws.length = (len.toNat + 3) / 4 → s.host = cmds (encode (.calculate len) ++ ws) ++ rest →
    run (1 + ws.length) s = .next { s with
      host := rest
      result := c.out (c.fold c.init ((ws.flatMap fun w =>
        [w.extractLsb' 0 8, w.extractLsb' 8 8, w.extractLsb' 16 8, w.extractLsb' 24 8]).take len.toNat))
      rv := true }

/-- The one-shot and the streaming engine agree (R145): from the same state, `CALC M` and `INIT; WRITE M; FINISH`
both end without a fault and with the same RESULT. -/
def Obligations.CalcEqualsStreaming : Prop :=
  ∀ (s : State) (c : Cfg) (m : List Byte), s.Ready → s.cfg? = some c → c.wf = true → m.length < 2 ^ 28 →
    ∃ t u,
      run (1 + (packWords m).length) { s with host := cmds (encode (.calculate (BitVec.ofNat 28 m.length)) ++ packWords m) } = .next t ∧
      run (m.length + 2) { s with host := cmds (encode .init ++ writeWords m ++ encode .finish) } = .next u ∧
      RunOk t ∧ RunOk u ∧ t.rv = true ∧ u.rv = true ∧ t.result = u.result

/-- The bits of a byte pushed one by one, most significant first when REFIN = 0 and least significant first when
REFIN = 1, are the byte written by WRBYTE (R86, R109). -/
def Obligations.PushedBitsEqualWrittenByte : Prop :=
  ∀ (s : State) (c : Cfg) (r : Half) (d : Byte) (rest : List HostOp), s.Ready → s.session = .active c r →
    run 8 { s with host := cmds (pushWords (if c.refin then (byteBits d).reverse else byteBits d)) ++ rest } =
      run 1 { s with host := cmds (writeWords [d]) ++ rest }

/-- On a verify-capable configuration, `INIT; WRITE M`, the checksum of M most significant byte first, then `VERIFY`
answers 1, whichever way VERIFY_GUARD is built (R114, R155, R156, R62). -/
def Obligations.SentMessageVerifies : Prop :=
  ∀ (s : State) (c : Cfg) (m : List Byte), s.Ready → s.cfg? = some c → c.wf = true →
    c.refin = false → c.refout = false → c.xorout = 0#16 →
    run (m.length + c.width.bits / 8 + 2) { s with host := cmds (encode .init ++ writeWords m ++
        writeWords (c.checksumBytes (c.out (c.fold c.init m))) ++ encode .verify) } =
      .next { s with host := [], session := .finished c, result := 1#16, rv := true }

/-- RDREG followed later by LDREG of the value read, under the same configuration, resumes the session exactly
(R158), whatever the session was in between. -/
def Obligations.SaveAndRestoreResumesSession : Prop :=
  ∀ (s t u : State) (c : Cfg) (r : Half), s.inv = true → s.session = .active c r → exec .rdreg s = .next t →
    u.cfg? = some c → exec (.ldreg t.result) u = .next { u with session := s.session }

/-- The empty message (R116): `CALC 0` answers what `INIT; FINISH` answers, `out(CFG.INIT)`. -/
def Obligations.EmptyMessageGivesOutOfInit : Prop :=
  ∀ (s : State) (c : Cfg) (rest : List HostOp), s.Ready → s.cfg? = some c →
    run 1 { s with host := cmds (encode (.calculate 0#28)) ++ rest } =
      .next { s with host := rest, result := c.out c.init, rv := true } ∧
    run 2 { s with host := cmds (encode .init ++ encode .finish) ++ rest } =
      .next { s with host := rest, session := .finished c, result := c.out c.init, rv := true }

/-! ### Several instances -/

/-- An event for one instance leaves every other instance as it was (R36, R67). -/
def Obligations.InstancesAreIndependent : Prop :=
  ∀ (p q : Platform) (k j : Nat), Platform.step p = .next q → p.target = some k → j ≠ k →
    q.instances[j]? = p.instances[j]?

/-- Every instance's window is the 32 bytes from its CRC_BASE, a multiple of 32, and each address of it is decoded to
that instance and offset (R52). -/
def Obligations.WindowAddressesDecode : Prop :=
  (∀ k, Config.crcBase k % 32 = 0) ∧
  (∀ n k off, k < n → off < 0x20 → locate (Config.crcBase k + off) n = some (k, off)) ∧
  (∀ n addr, (∀ k, k < n → addr < Config.crcBase k ∨ Config.crcBase k + 0x1F < addr) → locate addr n = none)

/-- An access at CRC_BASE + off of an instance is that access at offset off of the instance (R52, R55). -/
def Obligations.PlatformAccessReachesInstance : Prop :=
  ∀ (p : Platform) (s : State) (k off size : Nat) (v : Word) (rest : List BusOp),
    p.instances[k]? = some s → off < 0x20 →
    (p.bus = .write size (Config.crcBase k + off) v :: rest →
      ∀ t, step { s with host := .write size off v :: s.host } = .next t →
        Platform.step p = .next { instances := p.instances.set k t, bus := rest }) ∧
    (p.bus = .read size (Config.crcBase k + off) :: rest →
      ∀ t, step { s with host := .read size off :: s.host } = .next t →
        Platform.step p = .next { instances := p.instances.set k t, bus := rest })

/-- A platform starts with N_INST instances, at least one, all in the reset state (R7, R209, R231). -/
def Obligations.PlatformStartsTogether : Prop :=
  1 ≤ Config.nInst ∧ Platform.reset.instances.length = Config.nInst ∧
    ∀ s ∈ Platform.reset.instances, s = State.reset
end

