-- ==== Sys2Proof/Laws/Datapath.lean ====
section
/-!
SUPPORT. The datapath: which values are W bits wide, that every fold keeps W bits, and that one shift step is linear.
-/
namespace Sys2Proof

/-- For W = 8 a value fits when it is at most 0xFF (R132). -/
theorem Width.fits_w8_iff (v : Half) : Width.w8.fits v = true ↔ v.toNat ≤ 0xFF := by
  simp only [Width.fits, beq_iff_eq]
  constructor
  · intro h
    have := congrArg BitVec.toNat h
    simp [BitVec.extractLsb'_toNat, Nat.shiftRight_eq_div_pow] at this
    have := v.isLt
    omega
  · intro h
    apply BitVec.eq_of_toNat_eq
    simp [BitVec.extractLsb'_toNat, Nat.shiftRight_eq_div_pow]
    omega

/-- For W = 16 every value fits (R132). -/
theorem Width.fits_w16 (v : Half) : Width.w16.fits v = true := rfl

/-- A W-bit value has no bit from W up (R25). -/
theorem Width.getLsbD_of_fits {w : Width} {v : Half} (h : w.fits v = true) {i : Nat} (hi : w.bits ≤ i) : v.getLsbD i = false := by
  cases w
  · rw [Width.fits_w8_iff] at h
    unfold BitVec.getLsbD
    apply Nat.testBit_lt_two_pow
    calc v.toNat < 2^8 := by omega
      _ ≤ 2^i := Nat.pow_le_pow_right (by decide) hi
  · exact BitVec.getLsbD_of_ge _ _ hi

/-- A value with no bit from W up is a W-bit value. -/
theorem Width.fits_of_getLsbD {w : Width} {v : Half} (h : ∀ i, w.bits ≤ i → v.getLsbD i = false) : w.fits v = true := by
  cases w
  · simp only [Width.fits, beq_iff_eq]
    apply BitVec.eq_of_getLsbD_eq; intro i hi
    have := h (8+i) (by simp [Width.bits])
    simp [hi, this, -BitVec.getLsbD_eq_getElem]
  · rfl

/-- A field of an XOR is the XOR of the fields. -/
theorem extract_xor {w : Nat} (s l : Nat) (a b : BitVec w) : (a ^^^ b).extractLsb' s l = a.extractLsb' s l ^^^ b.extractLsb' s l := by
  apply BitVec.eq_of_getLsbD_eq; intro i hi; simp [hi, -BitVec.getLsbD_eq_getElem]

/-- The XOR of W-bit values is a W-bit value (R119). -/
theorem Width.fits_xor {w : Width} {a b : Half} (ha : w.fits a = true) (hb : w.fits b = true) : w.fits (a ^^^ b) = true := by
  cases w
  · simp only [Width.fits, beq_iff_eq] at *; rw [extract_xor, ha, hb]; rfl
  · rfl

end Sys2Proof

namespace Sys2Proof.Machine

/-- One shift step gives a W-bit value (R105, R107). -/
theorem Cfg.shiftXor_fits {c : Cfg} (hp : c.width.fits c.poly = true) (t : Bool) (v : Half) : c.width.fits (c.shiftXor t v) = true := by
  have : c.width.fits (v <<< 1 &&& c.mask) = true := by
    unfold Cfg.mask
    cases h : c.width
    · simp only [Width.fits, beq_iff_eq]
      apply BitVec.eq_of_getLsbD_eq; intro i hi
      interval_cases i <;> simp
    · rfl
  unfold Cfg.shiftXor
  cases t
  · exact this
  · exact Width.fits_xor this hp

/-- The bit-wise byte fold gives a W-bit value (R108). -/
theorem Cfg.byteFoldBits_fits {c : Cfg} (hp : c.width.fits c.poly = true) (r : Half) (b : Byte) : c.width.fits (c.byteFoldBits r b) = true := by
  simp only [Cfg.byteFoldBits, byteBits, List.foldl_cons, List.foldl_nil]
  exact Cfg.shiftXor_fits hp _ _

/-- `gen` gives a W-bit value (R105). -/
theorem Cfg.gen_fits {c : Cfg} (hp : c.width.fits c.poly = true) (b : Byte) : c.width.fits (c.gen b) = true := by
  simp only [Cfg.gen, Function.iterate_succ', Function.comp]
  exact Cfg.shiftXor_fits hp _ _

/-- The byte fold gives a W-bit value (R104). -/
theorem Cfg.byteFold_fits {c : Cfg} (hp : c.width.fits c.poly = true) (r : Half) (b : Byte) : c.width.fits (c.byteFold r b) = true := by
  unfold Cfg.byteFold
  cases h : c.width
  · simp only []; rw [← h]; exact Cfg.gen_fits hp _
  · rfl

/-- A fold from a W-bit value gives a W-bit value (R110). -/
theorem Cfg.fold_fits {c : Cfg} (hp : c.width.fits c.poly = true) (m : List Byte) : ∀ r, c.width.fits r = true → c.width.fits (c.fold r m) = true := by
  induction m with
  | nil => exact fun r h => h
  | cons b m ih => intro r h; exact ih _ (Cfg.byteFold_fits hp r b)

/-- Shift and mask distribute over XOR. -/
theorem shiftMask_xor (m x y : Half) : ((x ^^^ y) <<< 1) &&& m = ((x <<< 1) &&& m) ^^^ ((y <<< 1) &&& m) := by
  apply BitVec.eq_of_getLsbD_eq; intro i hi
  simp only [BitVec.getLsbD_and, BitVec.getLsbD_xor, BitVec.getLsbD_shiftLeft]
  cases x.getLsbD (i-1) <;> cases y.getLsbD (i-1) <;> cases m.getLsbD i <;> simp

/-- One shift step is linear in its bit and its register together (R109). -/
theorem Cfg.shiftXor_xor (c : Cfg) (a b : Bool) (x y : Half) :
    c.shiftXor (a ^^ b) (x ^^^ y) = c.shiftXor a x ^^^ c.shiftXor b y := by
  unfold Cfg.shiftXor
  rw [shiftMask_xor]
  generalize (x <<< 1) &&& c.mask = u
  generalize (y <<< 1) &&& c.mask = v
  apply BitVec.eq_of_getLsbD_eq; intro i hi
  cases a <;> cases b <;> simp [-BitVec.getLsbD_eq_getElem] <;> cases u.getLsbD i <;> cases v.getLsbD i <;> cases c.poly.getLsbD i <;> rfl

/-- The top bit of an XOR. -/
theorem Cfg.topBit_xor (c : Cfg) (x y : Half) : c.topBit (x ^^^ y) = (c.topBit x ^^ c.topBit y) := by
  simp [Cfg.topBit, -BitVec.getLsbD_eq_getElem]

/-- A shift step keeps zero. -/
theorem Cfg.genStep_zero (c : Cfg) : c.genStep 0#16 = 0#16 := by
  simp [Cfg.genStep, Cfg.topBit, Cfg.shiftXor]

/-- Shift steps keep zero. -/
theorem Cfg.genStep_iterate_zero (c : Cfg) (n) : (c.genStep)^[n] 0#16 = 0#16 := by
  induction n with
  | zero => rfl
  | succ n ih => simp only [Function.iterate_succ, Function.comp]; rw [Cfg.genStep_zero, ih]

/-- `gen(0) = 0` for every POLY (R105). -/
theorem Cfg.gen_zero (c : Cfg) : c.gen 0#8 = 0#16 := by
  unfold Cfg.gen
  rw [show (BitVec.setWidth 16 0#8 <<< (c.width.bits - 8) : Half) = 0#16 by simp, Cfg.genStep_iterate_zero]

/-- Folding a message in two parts (R110). -/
theorem Cfg.fold_append (c : Cfg) (r : Half) (a b : List Byte) : c.fold r (a ++ b) = c.fold (c.fold r a) b := by
  simp [Cfg.fold, List.foldl_append]

end Sys2Proof.Machine
end

