-- ==== Sys2Proof/Laws/Encoding.lean ====
section
/-!
SUPPORT. A word is the `|||` of its placed fields: what each field of it reads as, and the opcode, the reserved bits
and the operands of an encoded first word (30_encoding.md R73 to R77).
-/
namespace Sys2Proof

@[simp] theorem Width.ofWsel_wsel (wd : Width) : Width.ofWsel wd.wsel = wd := by cases wd <;> rfl

@[simp] theorem Width.wsel_ofWsel (b : Bool) : (Width.ofWsel b).wsel = b := by cases b <;> rfl

/-- The opcode of a code is the opcode it is the code of (R79). -/
@[simp] theorem opcodeOf_code (op : Opcode) : opcodeOf op.code = some op := by cases op <;> rfl

/-- Only a defined code has an opcode (R80). -/
theorem code_of_opcodeOf {x : BitVec 4} {op : Opcode} (h : opcodeOf x = some op) : op.code = x := by
  revert h
  revert op
  revert x
  decide

/-! ### Placed fields -/

theorem getLsbD_place {n : Nat} (lo i : Nat) (v : BitVec n) :
    (place lo v).getLsbD i = (decide (lo ≤ i) && decide (i < 32) && v.getLsbD (i - lo)) := by
  unfold place
  rw [BitVec.getLsbD_shiftLeft, BitVec.getLsbD_setWidth]
  by_cases h1 : i < 32
  · by_cases h2 : lo ≤ i
    · simp [h1, h2, show i - lo < 32 by omega]
    · simp [h2, show i < lo by omega]
  · simp [h1]

/-- A placed field reads back. -/
theorem extract_place_same {n : Nat} (lo : Nat) (v : BitVec n) (h : lo + n ≤ 32) : (place lo v).extractLsb' lo n = v := by
  apply BitVec.eq_of_getLsbD_eq
  intro i hi
  rw [BitVec.getLsbD_extractLsb', getLsbD_place]
  simp [hi, show lo + i < 32 by omega]

/-- A field reads 0 in a word whose placed field it does not meet. -/
theorem extract_place_disjoint {n : Nat} (lo lo' len : Nat) (v : BitVec n) (h : lo' + len ≤ lo ∨ lo + n ≤ lo') :
    (place lo v).extractLsb' lo' len = 0#len := by
  apply BitVec.eq_of_getLsbD_eq
  intro i hi
  rw [BitVec.getLsbD_extractLsb', getLsbD_place]
  rcases h with h | h
  · simp [show ¬ lo ≤ lo' + i by omega]
  · simp [BitVec.getLsbD_of_ge v (lo' + i - lo) (by omega)]

theorem extract_or (lo len : Nat) (x y : Word) :
    (x ||| y).extractLsb' lo len = x.extractLsb' lo len ||| y.extractLsb' lo len := by
  apply BitVec.eq_of_getLsbD_eq
  intro i hi
  simp [hi]

/-- A word is its fields put back in place: the low field of `n` bits and what stands above it. -/
theorem eq_of_fields_eq {x y : Word} (n : Nat) (hn : n ≤ 32) (lo : x.extractLsb' 0 n = y.extractLsb' 0 n)
    (hi : x.extractLsb' n (32 - n) = y.extractLsb' n (32 - n)) : x = y := by
  apply BitVec.eq_of_getLsbD_eq
  intro i h32
  by_cases h : i < n
  · simpa [h] using congrArg (fun b => b.getLsbD i) lo
  · have := congrArg (fun b => b.getLsbD (i - n)) hi
    simpa [show i - n < 32 - n by omega, show n + (i - n) = i by omega] using this

/-! ### The fields of an encoded first word -/

theorem opField_firstWord (i : Instr) : opField i.firstWord = i.opcode.code := by
  cases i <;> simp [opField, Instr.firstWord, ConfigWord.toWord, Instr.opcode, extract_or, extract_place_same,
    extract_place_disjoint]

theorem reservedZero_firstWord (i : Instr) : reservedZero i.opcode i.firstWord = true := by
  cases i <;> simp [reservedZero, Instr.firstWord, ConfigWord.toWord, Instr.opcode, extract_or, extract_place_disjoint]

theorem dataField_pushbit (d : Byte) : dataField (Instr.pushbit d).firstWord = d := by
  simp [dataField, Instr.firstWord, extract_or, extract_place_same, extract_place_disjoint]

theorem dataField_wrbyte (d : Byte) : dataField (Instr.wrbyte d).firstWord = d := by
  simp [dataField, Instr.firstWord, extract_or, extract_place_same, extract_place_disjoint]

theorem valueField_ldreg (v : Half) : valueField (Instr.ldreg v).firstWord = v := by
  simp [valueField, Instr.firstWord, extract_or, extract_place_same, extract_place_disjoint]

theorem lenField_calc (len : Len) : lenField (Instr.calculate len).firstWord = len := by
  simp [lenField, Instr.firstWord, extract_or, extract_place_same, extract_place_disjoint]

theorem configFields_toWord (w0 : ConfigWord) : configFields w0.toWord = w0 := by
  obtain ⟨ro, ri, wd, p⟩ := w0
  cases ro <;> cases ri <;> cases wd <;>
    simp [configFields, ConfigWord.toWord, BitVec.getLsbD_or, getLsbD_place, Width.ofWsel, Width.wsel, Opcode.code,
      extract_or, extract_place_same, extract_place_disjoint, -BitVec.getLsbD_eq_getElem]

theorem initField_secondWord (ini xo : Half) : initField (place 16 ini ||| place 0 xo) = ini := by
  simp [initField, extract_or, extract_place_same, extract_place_disjoint]

theorem xoroutField_secondWord (ini xo : Half) : xoroutField (place 16 ini ||| place 0 xo) = xo := by
  simp [xoroutField, extract_or, extract_place_same, extract_place_disjoint]

end Sys2Proof
end

