-- ==== Sys2Proof/Laws/State.lean ====
section
/-!
SUPPORT. What each update of the state does to each field, and what CFG, R and T read as after it.
-/
namespace Sys2Proof.Machine

@[simp] theorem State.withRegister_session (c : Cfg) (r : Half) (s : State) : (s.withRegister c r).session = .active c r := rfl
@[simp] theorem State.withRegister_pend (c : Cfg) (r : Half) (s : State) : (s.withRegister c r).pend = s.pend := rfl
@[simp] theorem State.withRegister_result (c : Cfg) (r : Half) (s : State) : (s.withRegister c r).result = s.result := rfl
@[simp] theorem State.withRegister_rv (c : Cfg) (r : Half) (s : State) : (s.withRegister c r).rv = s.rv := rfl
@[simp] theorem State.withRegister_faulted (c : Cfg) (r : Half) (s : State) : (s.withRegister c r).faulted = s.faulted := rfl
@[simp] theorem State.withRegister_faultCode (c : Cfg) (r : Half) (s : State) : (s.withRegister c r).faultCode = s.faultCode := rfl
@[simp] theorem State.withRegister_faultCmd (c : Cfg) (r : Half) (s : State) : (s.withRegister c r).faultCmd = s.faultCmd := rfl
@[simp] theorem State.withRegister_host (c : Cfg) (r : Half) (s : State) : (s.withRegister c r).host = s.host := rfl
@[simp] theorem State.withRegister_reads (c : Cfg) (r : Half) (s : State) : (s.withRegister c r).reads = s.reads := rfl

@[simp] theorem State.consume_session (c : Cfg) (s : State) : (s.consume c).session = .finished c := rfl
@[simp] theorem State.consume_pend (c : Cfg) (s : State) : (s.consume c).pend = s.pend := rfl
@[simp] theorem State.consume_result (c : Cfg) (s : State) : (s.consume c).result = s.result := rfl
@[simp] theorem State.consume_rv (c : Cfg) (s : State) : (s.consume c).rv = s.rv := rfl
@[simp] theorem State.consume_faulted (c : Cfg) (s : State) : (s.consume c).faulted = s.faulted := rfl
@[simp] theorem State.consume_faultCode (c : Cfg) (s : State) : (s.consume c).faultCode = s.faultCode := rfl
@[simp] theorem State.consume_faultCmd (c : Cfg) (s : State) : (s.consume c).faultCmd = s.faultCmd := rfl
@[simp] theorem State.consume_host (c : Cfg) (s : State) : (s.consume c).host = s.host := rfl
@[simp] theorem State.consume_reads (c : Cfg) (s : State) : (s.consume c).reads = s.reads := rfl

@[simp] theorem State.withPend_session (p : Pend) (s : State) : (s.withPend p).session = s.session := rfl
@[simp] theorem State.withPend_pend (p : Pend) (s : State) : (s.withPend p).pend = p := rfl
@[simp] theorem State.withPend_result (p : Pend) (s : State) : (s.withPend p).result = s.result := rfl
@[simp] theorem State.withPend_rv (p : Pend) (s : State) : (s.withPend p).rv = s.rv := rfl
@[simp] theorem State.withPend_faulted (p : Pend) (s : State) : (s.withPend p).faulted = s.faulted := rfl
@[simp] theorem State.withPend_faultCode (p : Pend) (s : State) : (s.withPend p).faultCode = s.faultCode := rfl
@[simp] theorem State.withPend_faultCmd (p : Pend) (s : State) : (s.withPend p).faultCmd = s.faultCmd := rfl
@[simp] theorem State.withPend_host (p : Pend) (s : State) : (s.withPend p).host = s.host := rfl
@[simp] theorem State.withPend_reads (p : Pend) (s : State) : (s.withPend p).reads = s.reads := rfl

@[simp] theorem respond_session (v : Half) (s : State) : (respond v s).session = s.session := rfl
@[simp] theorem respond_pend (v : Half) (s : State) : (respond v s).pend = s.pend := rfl
@[simp] theorem respond_result (v : Half) (s : State) : (respond v s).result = v := rfl
@[simp] theorem respond_rv (v : Half) (s : State) : (respond v s).rv = true := rfl
@[simp] theorem respond_faulted (v : Half) (s : State) : (respond v s).faulted = s.faulted := rfl
@[simp] theorem respond_faultCode (v : Half) (s : State) : (respond v s).faultCode = s.faultCode := rfl
@[simp] theorem respond_faultCmd (v : Half) (s : State) : (respond v s).faultCmd = s.faultCmd := rfl
@[simp] theorem respond_host (v : Half) (s : State) : (respond v s).host = s.host := rfl
@[simp] theorem respond_reads (v : Half) (s : State) : (respond v s).reads = s.reads := rfl

@[simp] theorem raiseFault_session (code : FaultCode) (cmd0 : Word) (s : State) : (raiseFault code cmd0 s).session = s.session := rfl
@[simp] theorem raiseFault_pend (code : FaultCode) (cmd0 : Word) (s : State) : (raiseFault code cmd0 s).pend = .none := rfl
@[simp] theorem raiseFault_result (code : FaultCode) (cmd0 : Word) (s : State) : (raiseFault code cmd0 s).result = s.result := rfl
@[simp] theorem raiseFault_rv (code : FaultCode) (cmd0 : Word) (s : State) : (raiseFault code cmd0 s).rv = s.rv := rfl
@[simp] theorem raiseFault_faulted (code : FaultCode) (cmd0 : Word) (s : State) : (raiseFault code cmd0 s).faulted = true := rfl
@[simp] theorem raiseFault_faultCode (code : FaultCode) (cmd0 : Word) (s : State) : (raiseFault code cmd0 s).faultCode = code := rfl
@[simp] theorem raiseFault_faultCmd (code : FaultCode) (cmd0 : Word) (s : State) : (raiseFault code cmd0 s).faultCmd = cmd0 := rfl
@[simp] theorem raiseFault_host (code : FaultCode) (cmd0 : Word) (s : State) : (raiseFault code cmd0 s).host = s.host := rfl
@[simp] theorem raiseFault_reads (code : FaultCode) (cmd0 : Word) (s : State) : (raiseFault code cmd0 s).reads = s.reads := rfl

@[simp] theorem State.engineReset_session (s : State) : (s.engineReset).session = .unconfigured := rfl
@[simp] theorem State.engineReset_pend (s : State) : (s.engineReset).pend = .none := rfl
@[simp] theorem State.engineReset_result (s : State) : (s.engineReset).result = 0#16 := rfl
@[simp] theorem State.engineReset_rv (s : State) : (s.engineReset).rv = false := rfl
@[simp] theorem State.engineReset_faulted (s : State) : (s.engineReset).faulted = false := rfl
@[simp] theorem State.engineReset_faultCode (s : State) : (s.engineReset).faultCode = .none := rfl
@[simp] theorem State.engineReset_faultCmd (s : State) : (s.engineReset).faultCmd = 0#32 := rfl
@[simp] theorem State.engineReset_host (s : State) : (s.engineReset).host = s.host := rfl
@[simp] theorem State.engineReset_reads (s : State) : (s.engineReset).reads = s.reads := rfl

@[simp] theorem State.withRegister_cfg? (c : Cfg) (r : Half) (s : State) : (s.withRegister c r).cfg? = some c := rfl
@[simp] theorem State.withRegister_reg? (c : Cfg) (r : Half) (s : State) : (s.withRegister c r).reg? = some r := rfl
@[simp] theorem State.consume_cfg? (c : Cfg) (s : State) : (s.consume c).cfg? = some c := rfl
@[simp] theorem State.consume_reg? (c : Cfg) (s : State) : (s.consume c).reg? = none := rfl
@[simp] theorem State.withPend_cfg? (p : Pend) (s : State) : (s.withPend p).cfg? = s.cfg? := rfl
@[simp] theorem State.withPend_reg? (p : Pend) (s : State) : (s.withPend p).reg? = s.reg? := rfl
@[simp] theorem respond_cfg? (v : Half) (s : State) : (respond v s).cfg? = s.cfg? := rfl
@[simp] theorem respond_reg? (v : Half) (s : State) : (respond v s).reg? = s.reg? := rfl
@[simp] theorem raiseFault_cfg? (code : FaultCode) (cmd0 : Word) (s : State) : (raiseFault code cmd0 s).cfg? = s.cfg? := rfl
@[simp] theorem raiseFault_reg? (code : FaultCode) (cmd0 : Word) (s : State) : (raiseFault code cmd0 s).reg? = s.reg? := rfl

theorem State.cfg?_of_active {s : State} {c : Cfg} {r : Half} (h : s.session = .active c r) : s.cfg? = some c := by
  simp [State.cfg?, h]

theorem State.cfg?_of_finished {s : State} {c : Cfg} (h : s.session = .finished c) : s.cfg? = some c := by
  simp [State.cfg?, h]

theorem State.cfg?_eq_none {s : State} : s.cfg? = none ↔ s.session = .unconfigured := by
  cases h : s.session <;> simp [State.cfg?, h]

/-- Where CFG exists the session is ACTIVE or FINISHED under it. -/
theorem State.cfg?_eq_some {s : State} {c : Cfg} :
    s.cfg? = some c ↔ (∃ r, s.session = .active c r) ∨ s.session = .finished c := by
  cases h : s.session <;> simp [State.cfg?, h]

/-- R exists exactly while S = ACTIVE (R26). -/
theorem State.reg?_eq_some {s : State} {r : Half} : s.reg? = some r ↔ ∃ c, s.session = .active c r := by
  cases h : s.session <;> simp [State.reg?, h]

end Sys2Proof.Machine
end

