-- ==== Sys2Proof/Laws/Ops.lean ====
section
/-!
SUPPORT. One lemma per shared operation that says everything it can do: the session checks, the payload word, the
command processor, an access and a step.
-/
namespace Sys2Proof.Machine

theorem withCfg_cases (cmd0 : Word) (s : State) (k : Cfg → State) :
    (s.session = .unconfigured ∧ withCfg cmd0 s k = raiseFault .noConfig cmd0 s) ∨
    (∃ c, s.cfg? = some c ∧ withCfg cmd0 s k = k c) := by
  cases h : s.cfg? with
  | none => exact .inl ⟨State.cfg?_eq_none.mp h, by simp [withCfg, h]⟩
  | some c => exact .inr ⟨c, rfl, by simp [withCfg, h]⟩

theorem withCfg_of_cfg {cmd0 : Word} {s : State} {k : Cfg → State} {c : Cfg} (h : s.cfg? = some c) :
    withCfg cmd0 s k = k c := by simp [withCfg, h]

theorem withCfg_of_unconfigured {cmd0 : Word} {s : State} {k : Cfg → State} (h : s.session = .unconfigured) :
    withCfg cmd0 s k = raiseFault .noConfig cmd0 s := by simp [withCfg, State.cfg?_eq_none.mpr h]

theorem withReg_cases (cmd0 : Word) (s : State) (k : Cfg → Half → State) :
    (s.session = .unconfigured ∧ withReg cmd0 s k = raiseFault .noConfig cmd0 s) ∨
    (∃ c, s.session = .finished c ∧ withReg cmd0 s k = raiseFault .regConsumed cmd0 s) ∨
    (∃ c r, s.session = .active c r ∧ withReg cmd0 s k = k c r) := by
  cases h : s.session with
  | unconfigured => exact .inl ⟨rfl, by simp [withReg, h]⟩
  | finished c => exact .inr (.inl ⟨c, rfl, by simp [withReg, h]⟩)
  | active c r => exact .inr (.inr ⟨c, r, rfl, by simp [withReg, h]⟩)

theorem withReg_of_active {cmd0 : Word} {s : State} {k : Cfg → Half → State} {c : Cfg} {r : Half}
    (h : s.session = .active c r) : withReg cmd0 s k = k c r := by simp [withReg, h]

theorem withReg_of_finished {cmd0 : Word} {s : State} {k : Cfg → Half → State} {c : Cfg}
    (h : s.session = .finished c) : withReg cmd0 s k = raiseFault .regConsumed cmd0 s := by simp [withReg, h]

theorem withReg_of_unconfigured {cmd0 : Word} {s : State} {k : Cfg → Half → State}
    (h : s.session = .unconfigured) : withReg cmd0 s k = raiseFault .noConfig cmd0 s := by simp [withReg, h]

/-- Everything a payload word can do (R143). -/
theorem calcPayload_cases (rem : Nat) (t : Half) (len : Len) (w : Word) (s : State) :
    (s.session = .unconfigured ∧
      calcPayload rem t len w s = raiseFault .noConfig (Instr.calculate len).firstWord s) ∨
    (∃ c, s.cfg? = some c ∧ rem ≤ 4 ∧
      calcPayload rem t len w s = respond (c.out (c.fold t (payloadBytes w rem))) (s.withPend .none)) ∨
    (∃ c, s.cfg? = some c ∧ 4 < rem ∧
      calcPayload rem t len w s = s.withPend (.calcData (rem - 4) (c.fold t (payloadBytes w 4)) len)) := by
  unfold calcPayload
  obtain ⟨h, e⟩ | ⟨c, h, e⟩ := withCfg_cases (Instr.calculate len).firstWord s _
  · exact .inl ⟨h, e⟩
  · by_cases hr : rem ≤ 4
    · refine .inr (.inl ⟨c, h, hr, e.trans ?_⟩)
      simp [Nat.min_eq_left hr]
    · refine .inr (.inr ⟨c, h, by omega, e.trans ?_⟩)
      simp [Nat.min_eq_right (show 4 ≤ rem by omega), show rem - 4 ≠ 0 by omega]

/-- Executing a command always answers a next state: a fault of the engine is one (R191, R241). -/
theorem exec_next (i : Instr) (s : State) : ∃ t, exec i s = .next t := by
  cases i <;> simp [exec, execConfig, execInit, execPushbit, execWrbyte, execFinish, execVerify, execRdreg, execLdreg, execCalc]
  split <;> simp

/-- Everything a first word can do (R90). -/
theorem onFirstWord_cases (w : Word) (s : State) :
    (∃ e, decodeFirst w = .error e ∧ onFirstWord w s = .next (raiseFault .illegalCommand w s)) ∨
    (∃ w0, decodeFirst w = .ok (.configWord w0) ∧ onFirstWord w s = .next (s.withPend (.cfgw1 w0))) ∨
    (∃ i, decodeFirst w = .ok (.whole i) ∧ onFirstWord w s = exec i s) := by
  rcases h : decodeFirst w with e | (w0 | i)
  · exact .inl ⟨e, rfl, by simp [onFirstWord, h]⟩
  · exact .inr (.inl ⟨w0, rfl, by simp [onFirstWord, h, configFirst]⟩)
  · exact .inr (.inr ⟨i, rfl, by simp [onFirstWord, h]⟩)

/-- Everything a CMD word can do (R90). -/
theorem onCmd_cases (w : Word) (s : State) :
    (s.faulted = true ∧ onCmd w s = .next s) ∨
    (s.faulted = false ∧ s.pend = .none ∧ onCmd w s = onFirstWord w s) ∨
    (∃ w0, s.faulted = false ∧ s.pend = .cfgw1 w0 ∧ onCmd w s = exec (configOf w0 w) (s.withPend .none)) ∨
    (∃ rem t len, s.faulted = false ∧ s.pend = .calcData rem t len ∧
      onCmd w s = .next (calcPayload rem t len w s)) := by
  cases hf : s.faulted with
  | true => exact .inl ⟨rfl, by simp [onCmd, hf]⟩
  | false =>
    cases hp : s.pend with
    | none => exact .inr (.inl ⟨rfl, rfl, by simp [onCmd, hf, hp]⟩)
    | cfgw1 w0 => exact .inr (.inr (.inl ⟨w0, rfl, rfl, by simp [onCmd, hf, hp]⟩))
    | calcData rem t len => exact .inr (.inr (.inr ⟨rem, t, len, rfl, rfl, by simp [onCmd, hf, hp]⟩))

theorem WindowReg.at?_offset (r : WindowReg) : WindowReg.at? r.offset = some r := by cases r <;> rfl

theorem WindowReg.offset_of_at? {off : Nat} {r : WindowReg} (h : WindowReg.at? off = some r) : off = r.offset := by
  have := List.find?_some h
  exact (beq_iff_eq.mp this).symm

theorem WindowReg.offset_lt (r : WindowReg) : r.offset < 0x20 := by cases r <;> decide

/-- Everything an access can do (R51 to R53). -/
theorem access_cases (size off : Nat) (k : WindowReg → Host.Outcome State Fault Refusal) :
    (0x20 ≤ off ∧ access size off k = .fault .outsideWindow) ∨
    (off < 0x20 ∧ (size ≠ 4 ∨ WindowReg.at? off = none) ∧ access size off k = .refused .undefinedAccess) ∨
    (∃ r, size = 4 ∧ off = WindowReg.offset r ∧ access size off k = k r) := by
  unfold access
  by_cases ho : 0x20 ≤ off
  · exact .inl ⟨ho, by simp [ho]⟩
  · by_cases hs : size = 4
    · cases ha : WindowReg.at? off with
      | none => exact .inr (.inl ⟨by omega, .inr rfl, by simp [ho, hs]⟩)
      | some r => exact .inr (.inr ⟨r, hs, WindowReg.offset_of_at? ha, by simp [ho, hs]⟩)
    · exact .inr (.inl ⟨by omega, .inl hs, by simp [ho, hs]⟩)

theorem access_offset (r : WindowReg) (k : WindowReg → Host.Outcome State Fault Refusal) :
    access 4 r.offset k = k r := by
  simp [access, WindowReg.at?_offset, Nat.not_le.mpr r.offset_lt]

/-- A store to a register other than CMD changes nothing (R58). -/
theorem writeReg_cases (r : WindowReg) (v : Word) (s : State) :
    (r = .cmd ∧ writeReg r v s = onCmd v s) ∨ (r ≠ .cmd ∧ writeReg r v s = .next s) := by
  cases r <;> simp [writeReg]

/-- Everything a step that answers a next state can have done: idle, a discarded or executed CMD word, an ignored
store, a load, or reset. -/
theorem step_cases {s t : State} (h : step s = .next t) :
    (s.host = [] ∧ t = s) ∨
    (∃ rest w, s.host = HostOp.cmd w :: rest ∧ onCmd w { s with host := rest } = .next t) ∨
    (∃ rest r v, s.host = .write 4 (WindowReg.offset r) v :: rest ∧ r ≠ .cmd ∧ t = { s with host := rest }) ∨
    (∃ rest r, s.host = .read 4 (WindowReg.offset r) :: rest ∧
      t = { s with host := rest, reads := s.reads ++ [readReg r { s with host := rest }] }) ∨
    (∃ rest, s.host = .reset :: rest ∧ t = { s with host := rest }.engineReset) := by
  unfold step nextAccess at h
  split at h
  next hh => cases h; exact .inl ⟨hh, rfl⟩
  next op rest hh =>
    refine .inr ?_
    cases op with
    | write size off v =>
      simp only [hostStep] at h
      obtain ⟨-, e⟩ | ⟨-, -, e⟩ | ⟨r, rfl, rfl, e⟩ := access_cases size off fun r => writeReg r v { s with host := rest }
      · rw [e] at h; cases h
      · rw [e] at h; cases h
      · rw [e] at h
        obtain ⟨rfl, e'⟩ | ⟨hr, e'⟩ := writeReg_cases r v { s with host := rest }
        · rw [e'] at h; exact .inl ⟨rest, v, hh, h⟩
        · rw [e'] at h; cases h; exact .inr (.inl ⟨rest, r, v, hh, hr, rfl⟩)
    | read size off =>
      simp only [hostStep] at h
      obtain ⟨-, e⟩ | ⟨-, -, e⟩ | ⟨r, rfl, rfl, e⟩ := access_cases size off fun r =>
        .next { { s with host := rest } with reads := s.reads ++ [readReg r { s with host := rest }] }
      · rw [e] at h; cases h
      · rw [e] at h; cases h
      · rw [e] at h; cases h; exact .inr (.inr (.inl ⟨rest, r, hh, rfl⟩))
    | reset =>
      simp only [hostStep] at h
      cases h; exact .inr (.inr (.inr ⟨rest, hh, rfl⟩))

/-- A step at a CMD word is the command processor on it (R55). -/
theorem step_cmd {s : State} {w : Word} {rest : List HostOp} (h : s.host = HostOp.cmd w :: rest) :
    step s = onCmd w { s with host := rest } := by
  simp only [step, nextAccess, h, HostOp.cmd, hostStep]
  exact access_offset .cmd _

end Sys2Proof.Machine
end

