-- ==== Sys2Proof/Laws/PerInstr.lean ====
section
/-!
SUPPORT. Statements for all commands, one lemma per constructor. `SelectsOwnRow`: the first word of a command matches
the mask and the pattern of its own row of the opcode table (30_encoding.md R79), and a command's words, message data
apart, are two for CONFIG and one for every other (R83).
-/
namespace Sys2Proof.Laws.SelectsOwnRow

/-- The first word of `i` is in the row of `i`, and `i` has the number of command words R83 gives it. -/
def Statement (i : Instr) : Prop :=
  i.opcode.matchesWord i.firstWord = true ∧ (encode i).length = (if i.opcode = .config then 2 else 1)

/-- A word whose fields above bit `n` are those of `i`, with `n` operand bits below: masking off the operand bits
leaves the pattern. -/
theorem masked_eq (n : Nat) (hn : n ≤ 32) (w mask pattern : Word) (hm : mask.extractLsb' 0 n = 0#n)
    (hm' : mask.extractLsb' n (32 - n) = BitVec.allOnes (32 - n)) (hp : pattern.extractLsb' 0 n = 0#n)
    (hw : w.extractLsb' n (32 - n) = pattern.extractLsb' n (32 - n)) : w &&& mask = pattern := by
  have hand : ∀ lo len, (w &&& mask).extractLsb' lo len = w.extractLsb' lo len &&& mask.extractLsb' lo len := by
    intro lo len
    apply BitVec.eq_of_getLsbD_eq
    intro i hi
    simp [hi]
  apply eq_of_fields_eq n hn
  · rw [hand, hm, hp, BitVec.and_zero]
  · rw [hand, hm', hw, BitVec.and_allOnes]

theorem config (w0 : ConfigWord) (ini xorout : Half) : Statement (.config w0 ini xorout) := by
  refine ⟨beq_iff_eq.mpr (masked_eq 19 (by decide) _ 0xFFF80000#32 0x10000000#32 (by decide) (by decide) (by decide) ?_), rfl⟩
  simp [Instr.firstWord, ConfigWord.toWord, extract_or, extract_place_disjoint]
  decide

theorem init : Statement .init := ⟨by decide, rfl⟩

theorem pushbit (data : Byte) : Statement (.pushbit data) := by
  refine ⟨beq_iff_eq.mpr (masked_eq 8 (by decide) _ 0xFFFFFF00#32 0x30000000#32 (by decide) (by decide) (by decide) ?_), rfl⟩
  simp [Instr.firstWord, extract_or, extract_place_disjoint]
  decide

theorem wrbyte (data : Byte) : Statement (.wrbyte data) := by
  refine ⟨beq_iff_eq.mpr (masked_eq 8 (by decide) _ 0xFFFFFF00#32 0x40000000#32 (by decide) (by decide) (by decide) ?_), rfl⟩
  simp [Instr.firstWord, extract_or, extract_place_disjoint]
  decide

theorem finish : Statement .finish := ⟨by decide, rfl⟩

theorem verify : Statement .verify := ⟨by decide, rfl⟩

theorem rdreg : Statement .rdreg := ⟨by decide, rfl⟩

theorem ldreg (value : Half) : Statement (.ldreg value) := by
  refine ⟨beq_iff_eq.mpr (masked_eq 16 (by decide) _ 0xFFFF0000#32 0x80000000#32 (by decide) (by decide) (by decide) ?_), rfl⟩
  simp [Instr.firstWord, extract_or, extract_place_disjoint]
  decide

theorem calculate (len : Len) : Statement (.calculate len) := by
  refine ⟨beq_iff_eq.mpr (masked_eq 28 (by decide) _ 0xF0000000#32 0x90000000#32 (by decide) (by decide) (by decide) ?_), rfl⟩
  simp [Instr.firstWord, extract_or, extract_place_disjoint]
  decide

end Sys2Proof.Laws.SelectsOwnRow
end

