-- ==== Sys2Proof/Laws/Run.lean ====
section
/-!
SUPPORT. Runs of steps: one step and then the rest, runs in sequence, and that `run` is the host's run of the core.
-/
namespace Sys2Proof.Machine

@[simp] theorem run_zero (s : State) : run 0 s = .next s := rfl

theorem run_succ {k : Nat} {s t : State} (h : step s = .next t) : run (k + 1) s = run k t := by simp [run, h]

theorem run_one (s : State) : run 1 s = step s := by cases h : step s <;> simp [run, h]

/-- A run that answers a next state goes on from it. -/
theorem run_add {a b : Nat} {s t : State} (h : run a s = .next t) : run (a + b) s = run b t := by
  induction a generalizing s with
  | zero => cases h; simp
  | succ a ih =>
    rw [Nat.succ_add]
    cases hs : step s with
    | next u => rw [run_succ hs] at h ⊢; exact ih h
    | fault r => simp [run, hs] at h
    | refused r => simp [run, hs] at h

theorem run_eq_core (k : Nat) (s : State) : run k s = Host.Core.run Sys2Proof.core k s := by
  induction k generalizing s with
  | zero => rfl
  | succ k ih =>
    simp only [run, Host.Core.run]
    show (match step s with
      | .next t => run k t
      | .fault r => .fault r
      | .refused r => .refused r) = _
    have : Sys2Proof.core.step s = step s := rfl
    rw [this]
    cases step s with
    | next t => exact ih t
    | fault r => rfl
    | refused r => rfl

end Sys2Proof.Machine
end

