-- ==== Sys2Proof/Tests/Slice0.lean ====
section
/-!
SUPPORT. The model's own tests: ill-formed commands refused, words of the spec decoded, one step per command with the
values of spec/95_test_vectors.md, and for each statement with hypotheses a state and operands that meet them. Each
expected value is the spec's; the comment above a group names the vector or the rule.
-/
namespace Sys2Proof

open Sys2Proof.Machine

/-! ### Helpers -/

def xmodem : Cfg := NamedConfig.cfg .crc16Xmodem
def genibus : Cfg := NamedConfig.cfg .crc16Genibus
def crc8 : Cfg := NamedConfig.cfg .crc8
def darc : Cfg := NamedConfig.cfg .crc8Darc

/-- Just reset, then in an ACTIVE session. -/
def live (c : Cfg) (r : Half) : State := { State.reset with session := .active c r }

/-- Just reset, then in a FINISHED session. -/
def spent (c : Cfg) : State := { State.reset with session := .finished c }

/-- These accesses still to be made. -/
def given (ops : List HostOp) (s : State) : State := { s with host := ops }

/-- An engine that took WRBYTE before CONFIG (V-FLT-6). -/
def halted : State := State.reset.faultedBy .noConfig 0x40000031#32

/-- The next state of an outcome. -/
def nextOf : Host.Outcome State Fault Refusal → Option State
  | .next t => some t
  | .fault _ => none
  | .refused _ => none

/-- "123456789" (R14). -/
def nine : List Byte := [0x31#8, 0x32#8, 0x33#8, 0x34#8, 0x35#8, 0x36#8, 0x37#8, 0x38#8, 0x39#8]

/-! ### WellFormed: one ill-formed term per check (R132, R152), and the same term mended -/

theorem test_wf_poly : Instr.wf (.config ⟨false, false, .w8, 0x0107#16⟩ 0#16 0#16) = false := by decide
theorem test_wf_init : Instr.wf (.config ⟨false, false, .w8, 0x07#16⟩ 0x0100#16 0#16) = false := by decide
theorem test_wf_xorout : Instr.wf (.config ⟨false, false, .w8, 0x07#16⟩ 0#16 0x0100#16) = false := by decide
theorem test_wf_bit : Instr.wf (.pushbit 2#8) = false := by decide
theorem test_wf_accepts : Instr.wf (.config ⟨false, false, .w8, 0xFF#16⟩ 0xFF#16 0xFF#16) = true ∧
    Instr.wf (.config ⟨false, false, .w16, 0x0107#16⟩ 0x0100#16 0x0100#16) = true ∧ Instr.wf (.pushbit 1#8) = true := by decide

/-! ### Decoding, word by word (R73 to R81) -/

-- 0001 000000000 0 0 1 0001000000100001, then 1111111111111111 1111111111111111 (CRC-16/Genibus, R131)
theorem test_decode_config : decode [0x10011021#32, 0xFFFFFFFF#32] =
    .ok (.config { refout := false, refin := false, width := .w16, poly := 0x1021#16 } 0xFFFF#16 0xFFFF#16, []) := by decide
-- 0001 000000000 1 1 0 0000000000111001 (CRC-8/DARC, V-CFG-4); then INIT and XOROUT apart
theorem test_decode_config_fields : decode [0x10060039#32, 0x00FF0012#32] =
    .ok (.config { refout := true, refin := true, width := .w8, poly := 0x0039#16 } 0x00FF#16 0x0012#16, []) := by decide
-- w[18] is REFOUT and w[17] is REFIN (R76): 10020007 is REFIN8
theorem test_decode_refin : configFields 0x10020007#32 =
    { refout := false, refin := true, width := .w8, poly := 0x0007#16 } := by decide
theorem test_decode_init : decode [0x20000000#32] = .ok (.init, []) := by decide
theorem test_decode_pushbit : decode [0x30000001#32] = .ok (.pushbit 1#8, []) := by decide
theorem test_decode_wrbyte : decode [0x40000031#32] = .ok (.wrbyte 0x31#8, []) := by decide
theorem test_decode_finish : decode [0x50000000#32] = .ok (.finish, []) := by decide
theorem test_decode_verify : decode [0x60000000#32] = .ok (.verify, []) := by decide
theorem test_decode_rdreg : decode [0x70000000#32] = .ok (.rdreg, []) := by decide
theorem test_decode_ldreg : decode [0x80002672#32] = .ok (.ldreg 0x2672#16, []) := by decide
theorem test_decode_calc : decode [0x90000009#32, 0x34333231#32] = .ok (.calculate 9#28, [0x34333231#32]) := by decide
theorem test_decode_calc_longest : decode [0x9FFFFFFF#32] = .ok (.calculate 0xFFFFFFF#28, []) := by decide

-- rejected by name (V-FLT-1, V-FLT-2, V-FLT-3, V-FLT-4, V-FLT-7, V-FLT-8; R83 for the CONFIG word alone)
theorem test_reject_zero : decode [0x00000000#32] = .error .reservedOpcode := by decide
theorem test_reject_opcode : decode [0xA0000000#32] = .error .reservedOpcode := by decide
theorem test_reject_init_bit : decode [0x20000001#32] = .error .reservedBits := by decide
theorem test_reject_config_bit : decode [0x10080000#32, 0#32] = .error .reservedBits := by decide
theorem test_reject_wrbyte_bit : decode [0x40000100#32] = .error .reservedBits := by decide
theorem test_reject_ldreg_bit : decode [0x80010000#32] = .error .reservedBits := by decide
theorem test_reject_one_word : decode [0x10011021#32] = .error .needsSecondWord := by decide
theorem test_reject_nothing : decode [] = .error .noWord := by decide

-- encodings of R85 and the packing of V-CALC-1
theorem test_encode_config : encode genibus.toInstr = [0x10011021#32, 0xFFFFFFFF#32] := by decide
theorem test_encode_darc : encode darc.toInstr = [0x10060039#32, 0x00000000#32] := by decide
theorem test_assemble_calc : assemble (.calcBytes nine) =
    some [0x90000009#32, 0x34333231#32, 0x38373635#32, 0x00000039#32] := by decide
theorem test_assemble_append : assemble (.append16 0x31C3#16) = some [0x40000031#32, 0x400000C3#32] := by decide
theorem test_assemble_pushbyte : assemble (.pushbyteN 0x31#8) = some [0x30000000#32, 0x30000000#32, 0x30000001#32,
    0x30000001#32, 0x30000000#32, 0x30000000#32, 0x30000000#32, 0x30000001#32] := by decide
theorem test_assemble_range : assemble (.wrbyte 0xFF) = some [0x400000FF#32] ∧ assemble (.wrbyte 0x100) = none ∧
    assemble (.ldreg 0x10000) = none ∧ assemble (.calculate (2 ^ 28) []) = none := by decide

-- the host's numbering: a table word is decoded and run, CONFIG with a second word of zeros
theorem test_table_wrbyte : decodeTableWord 32 0x40000031 = some (.wrbyte 0x31#8) := by decide
theorem test_table_config : decodeTableWord 32 0x10011021 = some xmodem.toInstr := by decide
theorem test_table_reserved : decodeTableWord 32 0xA0000000 = none := by decide
theorem test_fetch_config : nextOf (step (State.reset.withFetchWord 32 0x10011021)) = some (live xmodem 0#16) := by decide
theorem test_fetch_wrbyte : nextOf (step (State.reset.withFetchWord 32 0x40000031)) = some halted := by decide

/-! ### The datapath (40_datapath.md examples; V-DP-1 to V-DP-16; the check values of L1) -/

theorem test_rev : rev8 0x31#8 = 0x8C#8 ∧ rev16 0x1234#16 = 0x2C48#16 := by decide
theorem test_gen : xmodem.gen 0x80#8 = 0x9188#16 ∧ xmodem.gen 0xFF#8 = 0x1EF0#16 ∧ crc8.gen 0x80#8 = 0x89#16 := by decide
theorem test_byteFold : xmodem.byteFold 0x1234#16 0x56#8 = 0x3C40#16 ∧ crc8.byteFold 0xF4#16 0xF4#8 = 0x00#16 ∧
    darc.byteFold 0x00#16 0x31#8 = 0x5B#16 := by decide
theorem test_out : genibus.out 0x29B1#16 = 0xD64E#16 ∧ darc.out 0xA8#16 = 0x15#16 ∧
    Cfg.out { xmodem with refin := true, refout := true } 0x9184#16 = 0x2189#16 := by decide
theorem test_verifyCapable : crc8.verifyCapable = true ∧ genibus.verifyCapable = false ∧ darc.verifyCapable = false ∧
    Cfg.verifyCapable { crc8 with refin := true } = false := by decide
theorem test_check16 : xmodem.out (xmodem.fold xmodem.init nine) = 0x31C3#16 ∧
    genibus.out (genibus.fold genibus.init nine) = 0xD64E#16 ∧
    (NamedConfig.cfg .crc16Cdma2000).fold 0xFFFF#16 nine = 0x4C06#16 := by decide
theorem test_check8 : crc8.fold 0x00#16 nine = 0xF4#16 ∧ (NamedConfig.cfg .crc8Cdma2000).fold 0xFF#16 nine = 0xDA#16 ∧
    darc.out (darc.fold 0x00#16 nine) = 0x15#16 ∧ (NamedConfig.cfg .crc8DvbS2).fold 0x00#16 nine = 0xBC#16 := by decide +kernel
-- the append-verify law fails outside verify-capable configurations (R115)
theorem test_append_not_capable : Cfg.fold { crc8 with refin := true } 0x00#16 [0x01#8, 0x89#8] = 0x48#16 ∧
    genibus.fold 0xFFFF#16 (nine ++ [0xD6#8, 0x4E#8]) = 0x1D0F#16 := by decide +kernel

/-! ### One step per command -/

-- CONFIG: V-CFG-1, V-CFG-5
theorem test_config_first : (nextOf (step (given [HostOp.cmd 0x10011021#32] State.reset))).map (fun t => (t.status, t.cfg0)) =
    some (0x00000010#32, 0#32) := by decide
theorem test_config_wide : (nextOf (exec (.config ⟨false, false, .w16, 0x0107#16⟩ 0x0100#16 0x0100#16) State.reset)).map
    (fun t => (t.status, t.reg?)) = some (0x00000001#32, some 0x0100#16) := by decide
-- INIT: V-INIT-1; NO_CONFIG (V-FLT-16's STATUS bits)
theorem test_init : (nextOf (exec .init (live genibus 0xC782#16))).map State.reg? = some (some 0xFFFF#16) := by decide
theorem test_init_reset : (nextOf (exec .init State.reset)).map State.status = some 0x00000204#32 := by decide
-- PUSHBIT: V-PB-4; V-FLT-11
theorem test_pushbit : (nextOf (exec (.pushbit 0#8) (live xmodem 0xFFFF#16))).map State.reg? = some (some 0xEFDF#16) := by decide
theorem test_pushbit_order : (nextOf (exec (.pushbit 2#8) (spent xmodem))).map (fun t => (t.faultCode, t.faultCmd)) =
    some (.regConsumed, 0x30000002#32) := by decide
-- WRBYTE: V-WB-4, V-WB-9
theorem test_wrbyte : (nextOf (exec (.wrbyte 0x56#8) (live xmodem 0x1234#16))).map State.reg? = some (some 0x3C40#16) := by decide
theorem test_wrbyte_refin : (nextOf (exec (.wrbyte 0x01#8) (live darc 0x00#16))).map State.reg? = some (some 0x4E#16) := by decide +kernel
-- FINISH: V-FIN-2; V-FLT-9
theorem test_finish : (nextOf (exec .finish (live genibus 0x29B1#16))).map (fun t => (t.result, t.status)) =
    some (0xD64E#16, 0x0000000A#32) := by decide
theorem test_finish_twice : (nextOf (exec .finish (spent xmodem))).map State.faultCode = some .regConsumed := by decide
-- VERIFY on a verify-capable configuration: V-VER-10, V-VER-11 (either value of VERIFY_GUARD)
theorem test_verify_zero : exec .verify (live xmodem 0#16) =
    .next { spent xmodem with result := 1#16, rv := true } := by
  simp [exec, execVerify, withReg, live, spent, xmodem, NamedConfig.cfg, Cfg.verifyCapable, verifyPred, respond, State.consume]
theorem test_verify_nonzero : exec .verify (live crc8 0x07#16) = .next { spent crc8 with result := 0#16, rv := true } := by
  simp [exec, execVerify, withReg, live, spent, crc8, NamedConfig.cfg, Cfg.verifyCapable, verifyPred, respond, State.consume]
-- RDREG: V-RD-1, V-RD-3
theorem test_rdreg : (nextOf (exec .rdreg (live xmodem 0x2672#16))).map (fun t => (t.result, t.reg?, t.status)) =
    some (0x2672#16, some 0x2672#16, 0x00000029#32) := by decide
theorem test_rdreg_narrow : (nextOf (exec .rdreg (live crc8 0xFF#16))).map State.result = some 0x00FF#16 := by decide
-- LDREG: V-LD-2's first word; V-FLT-14
theorem test_ldreg : nextOf (exec (.ldreg 0x2672#16) (spent xmodem)) = some (live xmodem 0x2672#16) := by decide
theorem test_ldreg_wide : (nextOf (exec (.ldreg 0x0100#16) (live crc8 0#16))).map State.status = some 0x00000625#32 := by decide
-- CALC: V-CALC-5's first word; a payload word, V-CALC-4
theorem test_calc_first : (nextOf (exec (.calculate 5#28) (live xmodem 0#16))).map (fun t => (t.pend, t.status)) =
    some (.calcData 5 0#16 5#28, 0x00000031#32) := by decide
theorem test_calc_payload : (calcPayload 1 0#16 1#28 0xFFFFFF31#32 (live xmodem 0#16)).result = 0x2672#16 := by decide

/-! ### Witnesses: for each statement with hypotheses, a state and operands that meet all of them -/

theorem test_witness_EncodeOfDecode : decode [0x10011021#32, 0xFFFFFFFF#32, 7#32] = .ok (genibus.toInstr, [7#32]) := by decide

-- the reserved opcodes at either end of their ranges, and the last defined one outside them (R80)
theorem test_witness_FirstWordMatchesOneRowOrFaults :
    (∀ w, (given [HostOp.cmd w] State.reset).Ready ∧ (given [HostOp.cmd w] State.reset).host = [HostOp.cmd w]) ∧
    (0x00000000#32).extractLsb' 28 4 = 0x0#4 ∧ (0x0FFFFFFF#32).extractLsb' 28 4 = 0x0#4 ∧
    0xA#4 ≤ (0xA0000000#32).extractLsb' 28 4 ∧ 0xA#4 ≤ (0xFFFFFFFF#32).extractLsb' 28 4 ∧
    ¬((0x9FFFFFFF#32).extractLsb' 28 4 = 0x0#4 ∨ 0xA#4 ≤ (0x9FFFFFFF#32).extractLsb' 28 4) :=
  ⟨fun _ => ⟨⟨rfl, rfl⟩, rfl⟩, by decide⟩

-- bytes at the ends of words, and the first and the last unused byte of the last word
theorem test_witness_PackedPayloadHoldsTheMessage : nine[8]? = some 0x39#8 ∧ nine[3]? = some 0x34#8 ∧
    (nine.length ≤ 9 ∧ 9 < 4 * (packWords nine).length) ∧ (nine.length ≤ 11 ∧ 11 < 4 * (packWords nine).length) := by decide

-- the six clauses: faulted, CFGW1, CALCDATA, a whole command, a CONFIG first word, a rejected word
theorem test_witness_StepRunsDecodedCommand :
    (let s := given [HostOp.cmd 7#32] halted; s.host = [HostOp.cmd 7#32] ∧ s.faulted = true) ∧
    (let s := { given [HostOp.cmd 7#32] State.reset with pend := .cfgw1 ⟨false, false, .w16, 1#16⟩ }
     s.host = [HostOp.cmd 7#32] ∧ s.faulted = false ∧ s.pend = .cfgw1 ⟨false, false, .w16, 1#16⟩) ∧
    (let s := { given [HostOp.cmd 7#32] (live crc8 0#16) with pend := .calcData 1 0#16 1#28 }
     s.host = [HostOp.cmd 7#32] ∧ s.faulted = false ∧ s.pend = .calcData 1 0#16 1#28) ∧
    (let s := given [HostOp.cmd 0x20000000#32] State.reset
     s.host = [HostOp.cmd 0x20000000#32] ∧ s.faulted = false ∧ s.pend = .none ∧ decode [0x20000000#32] = .ok (.init, [])) ∧
    (let s := given [HostOp.cmd 0x10011021#32] State.reset
     s.host = [HostOp.cmd 0x10011021#32] ∧ s.faulted = false ∧ s.pend = .none ∧ 0x10011021#32 = ConfigWord.toWord ⟨false, false, .w16, 0x1021#16⟩) ∧
    (let s := given [HostOp.cmd 0xF0000000#32] State.reset
     s.host = [HostOp.cmd 0xF0000000#32] ∧ s.faulted = false ∧ s.pend = .none ∧ decode [0xF0000000#32] = .error .reservedOpcode) ∧
    decode [0x300001FF#32] = .error .reservedBits := by
  decide

theorem test_witness_StepsOverEncodingExecute :
    (given (cmds (encode genibus.toInstr) ++ [.reset]) State.reset).Ready ∧
    (given (cmds (encode genibus.toInstr) ++ [.reset]) State.reset).host = cmds (encode genibus.toInstr) ++ [.reset] :=
  ⟨⟨rfl, rfl⟩, rfl⟩

theorem test_witness_PlacedCommandRunsNext : (live xmodem 0#16).faulted = false ∧
    decodeTableWord 32 0x9FFFFFFF = some (.calculate 0xFFFFFFF#28) ∧
    decodeTableWord 64 0x0000000110011021 = some (.config ⟨false, false, .w16, 0x1021#16⟩ 0#16 1#16) := by decide

theorem test_witness_FaultedEngineChangesOnlyByReset : halted.faulted = true ∧
    step (given [HostOp.cmd 0x20000000#32] halted) = .next halted ∧
    step (given [.read 4 8] halted) = .next { halted with reads := [0x00000204#32] } ∧
    step (given [.reset] halted) = .next State.reset := ⟨rfl, rfl, rfl, rfl⟩

-- V-FLT-2, V-FLT-13's and V-FLT-14's code bits, beside the NO_CONFIG of V-FLT-6
theorem test_witness_StatusFields : halted.faulted = true ∧ State.reset.faulted = false ∧ halted.status = 0x00000204#32 ∧
    (State.reset.faultedBy .illegalCommand 0xA0000000#32).status = 0x00000104#32 ∧
    (State.reset.faultedBy .illegalConfig 0x10000107#32).status = 0x00000504#32 ∧
    ((live crc8 0#16).faultedBy .illegalOperand 0x80000100#32).status = 0x00000625#32 := by decide

theorem test_witness_IdleEngineKeepsItsState : (live xmodem 1#16).host = [] := by decide

theorem test_witness_ResetSetsEveryElement : (given [.reset, .read 4 8] halted).host = .reset :: [.read 4 8] := by decide

-- each offset of R54
theorem test_witness_WindowReadsHaveNoSideEffect : ∀ off ∈ [0x00, 0x04, 0x08, 0x0C, 0x10, 0x14],
    (given [.read 4 off] halted).host = [.read 4 off] := by decide

theorem test_witness_WritesBesideCmdAreIgnored : ∀ off ∈ [0x04, 0x08, 0x0C, 0x10, 0x14, 0x18, 0x1C],
    off < 0x20 ∧ off % 4 = 0 ∧ off ≠ 0x00 ∧ (given [.write 4 off 7#32] halted).host = [.write 4 off 7#32] := by decide
theorem test_witness_reserved_reads : (given [.read 4 0x18] halted).host = [.read 4 0x18] ∧
    (given [.read 4 0x1C] halted).host = [.read 4 0x1C] := by decide

theorem test_witness_UndefinedAccessIsRefused : (0x1F < 0x20 ∧ 0x1F % 4 ≠ 0) ∧ (0x00 < 0x20 ∧ 2 ≠ 4) ∧
    (given [.read 4 0x1F] halted).host = [.read 4 0x1F] ∧ (given [.write 2 0x00 7#32] halted).host = [.write 2 0x00 7#32] := by
  decide

theorem test_witness_DefinedAccessCompletes : (0x1C < 0x20 ∧ 0x1C % 4 = 0) ∧ (0x00 < 0x20 ∧ 0x00 % 4 = 0) ∧
    (given [.write 4 0x1C 7#32] halted).host = [.write 4 0x1C 7#32] ∧ (given [.read 4 0x00] halted).host = [.read 4 0x00] := by
  decide

theorem test_witness_AccessOutsideWindowStops : 0x20 ≤ 0x20 ∧ (given [.read 4 0x20] halted).host = [.read 4 0x20] ∧
    (given [.write 4 0x20 7#32] halted).host = [.write 4 0x20 7#32] := by decide

theorem test_witness_ConfigurationReadback : State.reset.session = .unconfigured ∧ (live darc 0#16).cfg? = some darc ∧
    (spent darc).cfg? = some darc ∧ (live darc 0#16).cfg0 = 0x00060039#32 ∧ (spent genibus).cfg1 = 0xFFFFFFFF#32 := by decide

-- a pair that fails the range check and a pair of W = 16 with every operand bit set
theorem test_witness_ConfigTakesTwoWords :
    (∀ w0 w1, (given [HostOp.cmd w0, HostOp.cmd w1] State.reset).Ready ∧
      (given [HostOp.cmd w0, HostOp.cmd w1] State.reset).host = [HostOp.cmd w0, HostOp.cmd w1]) ∧
    ((0x10000107#32).extractLsb' 28 4 = 1#4 ∧ (0x10000107#32).extractLsb' 19 9 = 0#9) ∧
    ((0x1007FFFF#32).extractLsb' 28 4 = 1#4 ∧ (0x1007FFFF#32).extractLsb' 19 9 = 0#9) :=
  ⟨fun _ _ => ⟨⟨rfl, rfl⟩, rfl⟩, by decide⟩

-- W = 8 with every field at 0xFF, W = 16, and W = 8 with one field at 0x100
theorem test_witness_ConfigSetsConfigurationInRange :
    (0xFF#16 ≤ 0xFF#16) ∧ (ConfigWord.width ⟨false, false, .w16, 0x1021#16⟩ = .w16) ∧
    (ConfigWord.width ⟨false, false, .w8, 0x100#16⟩ = .w8 ∧ 0xFF#16 < ConfigWord.poly ⟨false, false, .w8, 0x100#16⟩) ∧
    0xFF#16 < 0x100#16 := by decide

-- RejectsReserved, the first clause of each per-command statement: the lowest and the highest reserved bit
theorem test_witness_RejectsReserved :
    (∀ w, (given [HostOp.cmd w] (live crc8 0#16)).Ready ∧ (given [HostOp.cmd w] (live crc8 0#16)).host = [HostOp.cmd w]) ∧
    ((0x10080000#32).extractLsb' 28 4 = 1#4 ∧
      (0x10080000#32).extractLsb' 19 9 ≠ 0#9 ∧
      (0x18000000#32).extractLsb' 28 4 = 1#4 ∧
      (0x18000000#32).extractLsb' 19 9 ≠ 0#9) ∧
    ((0x20000001#32).extractLsb' 28 4 = 2#4 ∧
      (0x20000001#32).extractLsb' 0 28 ≠ 0#28 ∧
      (0x28000000#32).extractLsb' 28 4 = 2#4 ∧
      (0x28000000#32).extractLsb' 0 28 ≠ 0#28) ∧
    ((0x30000100#32).extractLsb' 28 4 = 3#4 ∧
      (0x30000100#32).extractLsb' 8 20 ≠ 0#20 ∧
      (0x38000000#32).extractLsb' 28 4 = 3#4 ∧
      (0x38000000#32).extractLsb' 8 20 ≠ 0#20) ∧
    ((0x40000100#32).extractLsb' 28 4 = 4#4 ∧
      (0x40000100#32).extractLsb' 8 20 ≠ 0#20 ∧
      (0x48000000#32).extractLsb' 28 4 = 4#4 ∧
      (0x48000000#32).extractLsb' 8 20 ≠ 0#20) ∧
    ((0x50000001#32).extractLsb' 28 4 = 5#4 ∧
      (0x50000001#32).extractLsb' 0 28 ≠ 0#28 ∧
      (0x58000000#32).extractLsb' 28 4 = 5#4 ∧
      (0x58000000#32).extractLsb' 0 28 ≠ 0#28) ∧
    ((0x60000001#32).extractLsb' 28 4 = 6#4 ∧
      (0x60000001#32).extractLsb' 0 28 ≠ 0#28 ∧
      (0x68000000#32).extractLsb' 28 4 = 6#4 ∧
      (0x68000000#32).extractLsb' 0 28 ≠ 0#28) ∧
    ((0x70000001#32).extractLsb' 28 4 = 7#4 ∧
      (0x70000001#32).extractLsb' 0 28 ≠ 0#28 ∧
      (0x78000000#32).extractLsb' 28 4 = 7#4 ∧
      (0x78000000#32).extractLsb' 0 28 ≠ 0#28) ∧
    ((0x80010000#32).extractLsb' 28 4 = 8#4 ∧
      (0x80010000#32).extractLsb' 16 12 ≠ 0#12 ∧
      (0x88000000#32).extractLsb' 28 4 = 8#4 ∧
      (0x88000000#32).extractLsb' 16 12 ≠ 0#12) :=
  ⟨fun _ => ⟨⟨rfl, rfl⟩, rfl⟩, by decide⟩

-- the session hypotheses of InitStartsNewRegister, WrbyteFoldsOneByte, FinishRespondsAndConsumes,
-- RdregRespondsWithRegister and of the first clauses of the others: none, consumed, live
theorem test_witness_sessions : State.reset.session = .unconfigured ∧ (spent crc8).session = .finished crc8 ∧
    (live crc8 0xFF#16).session = .active crc8 0xFF#16 ∧ (live crc8 0xFF#16).cfg? = some crc8 ∧ (spent crc8).cfg? = some crc8 := by
  decide
theorem test_witness_PushbitFoldsOneBit : 1 < (2#8).toNat ∧ 1 < (0xFF#8).toNat ∧
    (live crc8 0xFF#16).session = .active crc8 0xFF#16 := by decide
theorem test_witness_VerifyTestsForZeroAndConsumes :
    (crc8.refin = false ∧ crc8.refout = false ∧ crc8.xorout = 0#16) ∧
    ¬(genibus.refin = false ∧ genibus.refout = false ∧ genibus.xorout = 0#16) ∧
    ¬(darc.refin = false ∧ darc.refout = false ∧ darc.xorout = 0#16) ∧
    (live genibus 0x1D0F#16).session = .active genibus 0x1D0F#16 := by decide
theorem test_witness_LdregSetsRegister : (crc8.width = .w8 ∧ 0xFF < (0x100#16).toNat ∧ (spent crc8).cfg? = some crc8) ∧
    (0xFF#16).toNat ≤ 0xFF ∧ (xmodem.width = .w16 ∧ (live xmodem 0#16).cfg? = some xmodem) := by decide
theorem test_witness_CalcStartsOrAnswersEmpty : (1#28 ≠ 0#28 ∧ 0xFFFFFFF#28 ≠ 0#28) ∧ (spent darc).cfg? = some darc := by decide

-- rem = 4 ends the CALC, rem = 5 does not
theorem test_witness_CalcPayloadWordFolds : ∀ rem ∈ [1, 4, 5],
    let s := { given [HostOp.cmd 0x34333231#32] (spent xmodem) with pend := .calcData rem 0#16 5#28 }
    s.faulted = false ∧ s.pend = .calcData rem 0#16 5#28 ∧ s.cfg? = some xmodem ∧ s.host = [HostOp.cmd 0x34333231#32] := by decide

-- a command that completes and one that faults
theorem test_witness_CommandFrames :
    exec .finish (live xmodem 0x31C3#16) = .next { spent xmodem with result := 0x31C3#16, rv := true } ∧
    faultOf .finish (live xmodem 0x31C3#16) = none ∧ exec .init State.reset = .next (State.reset.faultedBy .noConfig 0x20000000#32) ∧
    faultOf .init State.reset = some .noConfig ∧ faultOf (.calculate 0#28) (spent xmodem) = none ∧ faultOf .rdreg (live crc8 1#16) = none :=
  ⟨rfl, rfl, rfl, rfl, rfl, rfl⟩

-- a reserved bit beats NO_CONFIG (V-FLT-3); then each level of R198
theorem test_witness_FirstApplicableFaultIsRaised_word : (given [HostOp.cmd 0x20000001#32] State.reset).Ready ∧
    (given [HostOp.cmd 0x20000001#32] State.reset).host = [HostOp.cmd 0x20000001#32] ∧
    ∀ op : Opcode, 0x20000001#32 &&& op.mask ≠ op.pattern := ⟨⟨rfl, rfl⟩, rfl, fun op => by cases op <;> decide⟩
theorem test_witness_FirstApplicableFaultIsRaised : faultOf (.pushbit 2#8) (spent crc8) = some .regConsumed ∧
    faultOf (.pushbit 2#8) (live crc8 0#16) = some .illegalBit ∧ faultOf (.pushbit 1#8) (live crc8 0#16) = none ∧
    faultOf (.ldreg 0x100#16) State.reset = some .noConfig ∧
    faultOf (.config ⟨false, false, .w8, 0x107#16⟩ 0#16 0#16) State.reset = some .illegalConfig := by decide

-- at a first word, and at CONFIG's second word
theorem test_witness_FaultEntryChangesNothingElse :
    ((given [HostOp.cmd 0x40000031#32] State.reset).inv = true ∧
      step (given [HostOp.cmd 0x40000031#32] State.reset) = .next halted ∧ State.reset.faulted = false ∧ halted.faulted = true) ∧
    (let s := { given [HostOp.cmd 0x01000000#32] State.reset with pend := .cfgw1 ⟨false, false, .w8, 7#16⟩ }
     s.inv = true ∧ step s = .next (State.reset.faultedBy .illegalConfig 0x10000007#32)) := ⟨⟨rfl, rfl, rfl, rfl⟩, rfl, rfl⟩

theorem test_witness_PayloadWordsNeverFault :
    let s := { given [HostOp.cmd 0x34333231#32] (live crc8 0#16) with pend := .calcData 9 0#16 9#28 }
    s.inv = true ∧ s.pend = .calcData 9 0#16 9#28 ∧ s.host = [HostOp.cmd 0x34333231#32] ∧ (nextOf (step s)).isSome = true := by decide

theorem test_witness_OnlyResetClearsFaultAndResponse :
    let s := { halted with rv := true, host := [.read 4 4] }
    step s = .next { s with host := [], reads := [0#32] } ∧ s.faulted = true ∧ s.rv = true ∧ ∀ rest, s.host ≠ .reset :: rest :=
  ⟨rfl, rfl, rfl, fun _ h => by cases h⟩

theorem test_witness_EveryStepKeepsInvariant : (given [HostOp.cmd 0x90000005#32] (live xmodem 0x2672#16)).inv = true ∧
    (nextOf (step (given [HostOp.cmd 0x90000005#32] (live xmodem 0x2672#16)))).isSome = true := by decide

-- an accepted command, a fault, and a step that leaves UNCONFIGURED
theorem test_witness_SessionTransitions :
    exec .finish (live xmodem 0x31C3#16) = .next { spent xmodem with result := 0x31C3#16, rv := true } ∧
    faultOf .finish (live xmodem 0x31C3#16) = none ∧ faultOf .finish (spent xmodem) = some .regConsumed ∧
    (let s := { given [HostOp.cmd 0#32] State.reset with pend := .cfgw1 ⟨false, false, .w16, 0x1021#16⟩ }
     step s = .next (live xmodem 0#16) ∧ s.session = .unconfigured ∧ (live xmodem 0#16).session ≠ .unconfigured ∧
     ∀ rest, s.host ≠ .reset :: rest) :=
  ⟨rfl, rfl, rfl, rfl, rfl, by decide, fun _ h => by cases h⟩

theorem test_witness_OnlyConfigAndResetChangeConfiguration :
    let s := { given [HostOp.cmd 0#32] State.reset with pend := .cfgw1 ⟨false, false, .w16, 0x1021#16⟩ }
    step s = .next (live xmodem 0#16) ∧ (live xmodem 0#16).cfg? ≠ s.cfg? := ⟨rfl, by decide⟩

-- FINISH, RDREG and an empty CALC; VERIFY, whose check is that of R156
theorem test_witness_EightBitResponsesAreZeroExtended :
    (live crc8 0xFF#16).inv = true ∧ (live crc8 0xFF#16).cfg? = some crc8 ∧ crc8.width = .w8 ∧
    faultOf .finish (live crc8 0xFF#16) = none ∧ faultOf .rdreg (live crc8 0xFF#16) = none ∧
    faultOf (.calculate 0#28) (live crc8 0xFF#16) = none ∧ (nextOf (exec .finish (live crc8 0xFF#16))).isSome = true := by decide
-- the last payload word of a CALC, with one byte and with four bytes to come
theorem test_witness_EightBitResponses_payload : ∀ rem ∈ [1, 4],
    let s := { given [HostOp.cmd 0xEFBEADDE#32] (live crc8 0xFF#16) with pend := .calcData rem 0xFF#16 9#28 }
    s.inv = true ∧ s.cfg? = some crc8 ∧ crc8.width = .w8 ∧ s.pend = .calcData rem 0xFF#16 9#28 ∧ rem ≤ 4 ∧
    s.host = [HostOp.cmd 0xEFBEADDE#32] ∧ (nextOf (step s)).isSome = true := by decide +kernel
theorem test_witness_EightBitResponses_verify : faultOf .verify (live crc8 0xFF#16) = none := by
  simp [faultOf, live, Instr.operandFault, crc8, NamedConfig.cfg]

-- the hypotheses of ReversalMirrorsBits, BitFoldBits, BitwiseFoldEqualsByteFold, OutputReversesThenXors, FoldIsLinear,
-- AppendVerifyLaw and FoldIsPolynomialRemainder, for W = 16 and for W = 8
theorem test_witness_datapath : xmodem.wf = true ∧ crc8.wf = true ∧ darc.wf = true ∧ xmodem.width.fits 0xFFFF#16 = true ∧
    crc8.width.fits 0xFF#16 = true ∧ crc8.width.fits crc8.poly = true ∧ nine.length = nine.reverse.length ∧
    xmodem.refin = false ∧ xmodem.refout = false ∧ xmodem.xorout = 0#16 ∧ crc8.refin = false ∧ (7 < 8 ∧ 15 < 16) := by decide
theorem test_witness_SingleBitFlipChangesChecksum :
    Cfg.width { crc8 with poly := 0#16 } = .w8 ∧ Cfg.poly { crc8 with poly := 0#16 } = 0#16 := by decide

theorem test_witness_StreamingRunGivesChecksum :
    let s := given (cmds (writeWords nine ++ encode .finish) ++ [.read 4 4]) (live xmodem 0#16)
    s.Ready ∧ s.session = .active xmodem 0#16 ∧ xmodem.wf = true ∧ xmodem.width.fits 0#16 = true ∧
    s.host = cmds (writeWords nine ++ encode .finish) ++ [.read 4 4] := ⟨⟨rfl, rfl⟩, rfl, rfl, rfl, rfl⟩

-- LEN = 9 with three words, LEN = 0 with none
theorem test_witness_CalcRunGivesChecksum :
    let s := given (cmds (encode (.calculate 9#28) ++ packWords nine) ++ []) (spent darc)
    s.Ready ∧ s.cfg? = some darc ∧ (packWords nine).length = ((9#28).toNat + 3) / 4 ∧
    ([] : List Word).length = ((0#28).toNat + 3) / 4 ∧ s.host = cmds (encode (.calculate 9#28) ++ packWords nine) ++ [] :=
  ⟨⟨rfl, rfl⟩, rfl, rfl, rfl, rfl⟩

theorem test_witness_CalcEqualsStreaming : (spent darc).Ready ∧ (spent darc).cfg? = some darc ∧ darc.wf = true ∧
    nine.length < 2 ^ 28 := ⟨⟨rfl, rfl⟩, rfl, rfl, by decide⟩

theorem test_witness_PushedBitsEqualWrittenByte : (live darc 0#16).Ready ∧ (live darc 0#16).session = .active darc 0#16 :=
  ⟨⟨rfl, rfl⟩, rfl⟩

theorem test_witness_SentMessageVerifies : (spent xmodem).Ready ∧ (spent xmodem).cfg? = some xmodem ∧ xmodem.wf = true ∧
    xmodem.refin = false ∧ xmodem.refout = false ∧ xmodem.xorout = 0#16 := ⟨⟨rfl, rfl⟩, rfl, rfl, rfl, rfl, rfl⟩

theorem test_witness_SaveAndRestoreResumesSession : (live crc8 0x97#16).inv = true ∧
    (live crc8 0x97#16).session = .active crc8 0x97#16 ∧
    exec .rdreg (live crc8 0x97#16) = .next { live crc8 0x97#16 with result := 0x97#16, rv := true } ∧
    (spent crc8).cfg? = some crc8 := ⟨rfl, rfl, rfl, rfl⟩

theorem test_witness_EmptyMessageGivesOutOfInit : (spent genibus).Ready ∧ (spent genibus).cfg? = some genibus := ⟨⟨rfl, rfl⟩, rfl⟩

-- two instances, reset of the first; and a CMD write that reaches the first
theorem test_witness_InstancesAreIndependent :
    Platform.step { instances := [halted, spent crc8], bus := [.resetOne 0] } =
      .next { instances := [State.reset, spent crc8], bus := [] } ∧
    Platform.target { instances := [halted, spent crc8], bus := [.resetOne 0] } = some 0 ∧ 1 ≠ 0 := ⟨rfl, rfl, by decide⟩
theorem test_witness_WindowAddressesDecode : (0 < 1 ∧ 0x1F < 0x20) ∧
    ∀ k, k < 1 → Config.crcBase 0 + 0x20 < Config.crcBase k ∨ Config.crcBase k + 0x1F < Config.crcBase 0 + 0x20 := by
  refine ⟨by decide, fun k hk => ?_⟩
  obtain rfl : k = 0 := by omega
  omega
theorem test_witness_PlatformAccessReachesInstance :
    let p : Platform := { instances := [State.reset], bus := [.write 4 (Config.crcBase 0 + 0x00) 0x40000031#32] }
    p.instances[0]? = some State.reset ∧ 0x00 < 0x20 ∧ p.bus = [.write 4 (Config.crcBase 0 + 0x00) 0x40000031#32] ∧
    step { State.reset with host := .write 4 0x00 0x40000031#32 :: State.reset.host } = .next halted ∧
    (let q : Platform := { p with bus := [.read 4 (Config.crcBase 0 + 0x1C)] }
     q.instances[0]? = some State.reset ∧ 0x1C < 0x20 ∧ q.bus = [.read 4 (Config.crcBase 0 + 0x1C)] ∧
     step { State.reset with host := .read 4 0x1C :: State.reset.host } = .next { State.reset with reads := [0#32] }) :=
  ⟨rfl, by decide, rfl, rfl, rfl, by decide, rfl, rfl⟩

end Sys2Proof
end

/-!
PROOFS. The scope of the model: how many instances a platform has, and the state in which it starts.
-/
namespace Sys2Proof

/-- N_INST counts the first instance, so it is positive whatever the open number of further instances is (R7). -/
theorem Config.nInst_pos : 0 < Config.nInst := Nat.succ_pos Config.extraInstances

end Sys2Proof

namespace Sys2Proof.Machine

/-- At power-up every one of the N_INST instances exists (R209). -/
@[simp] theorem Platform.length_instances_reset : Platform.reset.instances.length = Config.nInst :=
  List.length_replicate

/-- At power-up no instance is in any state but the reset state (R209, R231). -/
theorem Platform.eq_reset_of_mem_instances_reset {s : State} (hs : s ∈ Platform.reset.instances) : s = State.reset :=
  List.eq_of_mem_replicate hs

/-- Settles O60, from the positivity of N_INST and the two facts about the instances of `Platform.reset`. -/
theorem platformStartsTogether : Obligations.PlatformStartsTogether :=
  ⟨Config.nInst_pos, Platform.length_instances_reset, fun _ => Platform.eq_reset_of_mem_instances_reset⟩

end Sys2Proof.Machine

/-!
PROOFS. What executing a command can do (30_encoding.md R90): either the fault the spec's table names (60_exceptions.md
R192, R198) is raised and nothing else happens, or the command is accepted and its meaning is the whole change.
-/
namespace Sys2Proof

/-- A value fits unless W = 8 and it is above 0xFF (R132, R196). -/
theorem Width.fits_iff {wd : Width} {v : Half} : wd.fits v = true ↔ ¬(wd = .w8 ∧ 0xFF < v.toNat) := by
  cases wd with
  | w8 => simp [Width.fits_w8_iff]
  | w16 => simp [Width.fits_w16]

/-- The range check of CONFIG fails when W = 8 and a value field is above 0xFF (R132). -/
theorem ConfigWord.wf_iff {w0 : ConfigWord} {ini xo : Half} :
    w0.wf ini xo = true ↔ ¬(w0.width = .w8 ∧ (0xFF < w0.poly.toNat ∨ 0xFF < ini.toNat ∨ 0xFF < xo.toNat)) := by
  simp only [ConfigWord.wf, Bool.and_eq_true, Width.fits_iff]
  tauto

end Sys2Proof

namespace Sys2Proof.Machine

/-- A configuration is verify-capable when it reflects neither way and XOROUT is 0 (R112). -/
theorem Cfg.verifyCapable_iff {c : Cfg} :
    c.verifyCapable = true ↔ c.refin = false ∧ c.refout = false ∧ c.xorout = 0#16 := by
  simp [Cfg.verifyCapable, and_assoc]

/-! ### The spec's fault table, read command by command -/

theorem faultOf_config (w0 : ConfigWord) (ini xo : Half) (s : State) :
    faultOf (.config w0 ini xo) s = if w0.wf ini xo then none else some .illegalConfig := by
  by_cases h : w0.wf ini xo = true
  · rw [if_pos h]; exact if_neg (ConfigWord.wf_iff.mp h)
  · rw [if_neg h]; exact if_pos (not_not.mp fun hn => h (ConfigWord.wf_iff.mpr hn))

theorem faultOf_of_unconfigured {i : Instr} {s : State} (hi : i.opcode ≠ .config) (hs : s.session = .unconfigured) :
    faultOf i s = some .noConfig := by
  cases i with
  | config => exact absurd rfl hi
  | _ => simp [faultOf, hs]

theorem faultOf_of_finished {i : Instr} {s : State} {c : Cfg} (hi : Instr.readsReg i = true) (hs : s.session = .finished c) :
    faultOf i s = some .regConsumed := by
  cases i with
  | config | init | ldreg | calculate => cases hi
  | _ => simp [faultOf, hs, Instr.readsReg]

/-- Where CFG exists, and R if the command reads it, only the command's own operand check is left (R198). -/
theorem faultOf_of_cfg {i : Instr} {s : State} {c : Cfg} (hi : i.opcode ≠ .config) (hc : s.cfg? = some c)
    (hr : Instr.readsReg i = true → ∃ r, s.session = .active c r) : faultOf i s = Instr.operandFault c i := by
  obtain ⟨r, hs⟩ | hs := State.cfg?_eq_some.mp hc
  · cases i with
    | config => exact absurd rfl hi
    | _ => simp [faultOf, hs]
  · have hn : Instr.readsReg i = false := by
      rw [← Bool.not_eq_true]
      intro h
      obtain ⟨r, hr⟩ := hr h
      simp [hs] at hr
    cases i with
    | config => exact absurd rfl hi
    | _ => simp [faultOf, hs, hn]

theorem Instr.opcode_ne_config_of_readsReg {i : Instr} (hi : Instr.readsReg i = true) : i.opcode ≠ .config := by
  cases i with
  | config => cases hi
  | _ => exact nofun

/-! ### Accepted commands -/

/-- The next state of an accepted command, one constructor per row of R79, and two for CALC, which answers at once
when LEN = 0 (R141). -/
inductive Accepted : Instr → State → State → Prop
  | config {w0 : ConfigWord} {ini xo : Half} {s : State} (hw : w0.wf ini xo = true) :
      Accepted (.config w0 ini xo) s (s.withRegister (cfgOf w0 ini xo) ini)
  | init {c : Cfg} {s : State} (hc : s.cfg? = some c) : Accepted .init s (s.withRegister c c.init)
  | pushbit {data : Byte} {c : Cfg} {r : Half} {s : State} (hs : s.session = .active c r) :
      Accepted (.pushbit data) s (s.withRegister c (c.bitFold r (data.getLsbD 0)))
  | wrbyte {data : Byte} {c : Cfg} {r : Half} {s : State} (hs : s.session = .active c r) :
      Accepted (.wrbyte data) s (s.withRegister c (c.byteFoldBits r data))
  | finish {c : Cfg} {r : Half} {s : State} (hs : s.session = .active c r) :
      Accepted .finish s ((respond (c.out r) s).consume c)
  | verify {c : Cfg} {r : Half} {s : State} (hs : s.session = .active c r) :
      Accepted .verify s ((respond (if verifyPred r then 1#16 else 0#16) s).consume c)
  | rdreg {c : Cfg} {r : Half} {s : State} (hs : s.session = .active c r) : Accepted .rdreg s (respond r s)
  | ldreg {value : Half} {c : Cfg} {s : State} (hc : s.cfg? = some c) (hv : c.width.fits value = true) :
      Accepted (.ldreg value) s (s.withRegister c value)
  | calculateEmpty {c : Cfg} {s : State} (hc : s.cfg? = some c) :
      Accepted (.calculate 0#28) s (respond (c.out c.init) s)
  | calculate {len : Len} {c : Cfg} {s : State} (hc : s.cfg? = some c) (hl : len ≠ 0#28) :
      Accepted (.calculate len) s (s.withPend (.calcData len.toNat c.init len))

/-- The next state of a command: the fault of the table with the command's first word as FAULT_CMD (R191), or that
of the accepted command. -/
inductive Executed (i : Instr) (s : State) : State → Prop
  | fault {code : FaultCode} (hcode : code ≠ .none) (hf : faultOf i s = some code) :
      Executed i s (raiseFault code i.firstWord s)
  | accept {t : State} (hf : faultOf i s = none) (ha : Accepted i s t) : Executed i s t

/-- The NO_CONFIG check of `withCfg` is that of the table, so only the command's own part is left to look at. -/
theorem Executed.withCfg {i : Instr} {s : State} {k : Cfg → State} (hi : i.opcode ≠ .config) (hr : Instr.readsReg i = false)
    (hk : ∀ c, s.cfg? = some c → faultOf i s = Instr.operandFault c i → Executed i s (k c)) :
    Executed i s (withCfg i.firstWord s k) := by
  obtain ⟨hs, e⟩ | ⟨c, hc, e⟩ := withCfg_cases i.firstWord s k
  · rw [e]; exact .fault (by decide) (faultOf_of_unconfigured hi hs)
  · rw [e]; exact hk c hc (faultOf_of_cfg hi hc (by simp [hr]))

/-- The NO_CONFIG and REG_CONSUMED checks of `withReg` are those of the table, in its order. -/
theorem Executed.withReg {i : Instr} {s : State} {k : Cfg → Half → State} (hi : Instr.readsReg i = true)
    (hk : ∀ c r, s.session = .active c r → faultOf i s = Instr.operandFault c i → Executed i s (k c r)) :
    Executed i s (withReg i.firstWord s k) := by
  have hop := Instr.opcode_ne_config_of_readsReg hi
  obtain ⟨hs, e⟩ | ⟨c, hs, e⟩ | ⟨c, r, hs, e⟩ := withReg_cases i.firstWord s k
  · rw [e]; exact .fault (by decide) (faultOf_of_unconfigured hop hs)
  · rw [e]; exact .fault (by decide) (faultOf_of_finished hi hs)
  · rw [e]; exact hk c r hs (faultOf_of_cfg hop (State.cfg?_of_active hs) fun _ => ⟨r, hs⟩)

/-- An operand check in a command's meaning that agrees with the table's. -/
theorem Executed.ite {i : Instr} {s u v : State} {p : Prop} [Decidable p] (hu : p → Executed i s u)
    (hv : ¬p → Executed i s v) : Executed i s (if p then u else v) := by
  split
  · next h => exact hu h
  · next h => exact hv h

/-- The guard of VERIFY is that of the table (R156, R198). -/
theorem operandFault_verify (c : Cfg) : Instr.operandFault c .verify =
    if (Config.verifyGuard && !c.verifyCapable) = true then some .verifyUnsupported else none := by
  simp [Instr.operandFault, ← Cfg.verifyCapable_iff]

/-- Everything executing a command can do (R90, R198). -/
theorem exec_executed {i : Instr} {s t : State} (h : exec i s = .next t) : Executed i s t := by
  cases i with
  | config w0 ini xo =>
    have hf := faultOf_config w0 ini xo s
    change (if w0.wf ini xo then Host.Outcome.next _ else .next _) = _ at h
    split at h
    · next hw => cases h; exact .accept (hf.trans (if_pos hw)) (.config hw)
    · next hw => cases h; exact .fault (by decide) (hf.trans (if_neg hw))
  | init => cases h; exact .withCfg nofun rfl fun c hc hf => .accept hf (.init hc)
  | pushbit data =>
    cases h
    refine .withReg rfl fun c r hs hf => .ite (fun hd => ?_) (fun hd => ?_)
    · exact .fault (by decide) (hf.trans (if_pos hd))
    · exact .accept (hf.trans (if_neg hd)) (.pushbit hs)
  | wrbyte data => cases h; exact .withReg rfl fun c r hs hf => .accept hf (.wrbyte hs)
  | finish => cases h; exact .withReg rfl fun c r hs hf => .accept hf (.finish hs)
  | verify =>
    cases h
    refine .withReg rfl fun c r hs hf => ?_
    rw [operandFault_verify] at hf
    refine .ite (fun hg => ?_) (fun hg => ?_)
    · exact .fault (by decide) (hf.trans (if_pos hg))
    · exact .accept (hf.trans (if_neg hg)) (.verify hs)
  | rdreg => cases h; exact .withReg rfl fun c r hs hf => .accept hf (.rdreg hs)
  | ldreg value =>
    cases h
    refine .withCfg nofun rfl fun c hc hf => .ite (fun hv => ?_) (fun hv => ?_)
    · exact .accept (hf.trans (if_neg (Width.fits_iff.mp hv))) (.ldreg hc hv)
    · exact .fault (by decide) (hf.trans (if_pos (not_not.mp fun hn => hv (Width.fits_iff.mpr hn))))
  | calculate len =>
    cases h
    refine .withCfg nofun rfl fun c hc hf => .ite (fun hl => ?_) (fun hl => ?_)
    · subst hl; exact .accept hf (.calculateEmpty hc)
    · exact .accept hf (.calculate hc hl)

end Sys2Proof.Machine

/-!
PROOFS. The invariant of the machine (`State.inv`): each update of the state keeps it where the values written are W bits
wide, so every command, every CMD word and every step keeps it.
-/
namespace Sys2Proof.Machine

/-! ### The invariant and the updates of the state -/

theorem State.inv_iff {s : State} : s.inv = true ↔
    s.session.wf = true ∧ s.pendWf = true ∧ s.faultWf = true ∧ (s.rv = false → s.result = 0#16) := by
  cases h : s.rv <;> simp [State.inv, h, and_assoc]

theorem Cfg.wf_iff {c : Cfg} : c.wf = true ↔
    c.width.fits c.poly = true ∧ c.width.fits c.init = true ∧ c.width.fits c.xorout = true := by
  simp [Cfg.wf, and_assoc]

theorem State.cfg_wf_of_inv {s : State} {c : Cfg} (h : s.inv = true) (hc : s.cfg? = some c) : c.wf = true := by
  obtain ⟨hs, -⟩ := State.inv_iff.mp h
  obtain ⟨r, e⟩ | e := State.cfg?_eq_some.mp hc
  · rw [e] at hs; exact (Bool.and_eq_true_iff.mp hs).1
  · rw [e] at hs; exact hs

theorem State.reg_fits_of_inv {s : State} {c : Cfg} {r : Half} (h : s.inv = true) (hs : s.session = .active c r) :
    c.width.fits r = true := by
  obtain ⟨hw, -⟩ := State.inv_iff.mp h
  rw [hs] at hw
  exact (Bool.and_eq_true_iff.mp hw).2

/-- While a CALC runs, its configuration exists, T is W bits wide and the engine has not faulted (R30, R31, R191). -/
theorem State.calcData_of_inv {s : State} {rem : Nat} {x : Half} {len : Len} (h : s.inv = true)
    (hp : s.pend = .calcData rem x len) :
    s.faulted = false ∧ ∃ c, s.cfg? = some c ∧ c.width.fits x = true ∧ 1 ≤ rem ∧ rem ≤ len.toNat := by
  obtain ⟨-, hpw, hfw, -⟩ := State.inv_iff.mp h
  constructor
  · cases hf : s.faulted with
    | false => rfl
    | true => simp [State.faultWf, hf, hp] at hfw
  · cases hc : s.cfg? with
    | none => simp [State.pendWf, hp, hc] at hpw
    | some c => exact ⟨c, rfl, by simpa [State.pendWf, hp, hc, and_assoc] using hpw⟩

theorem State.pendWf_calcData {s : State} {c : Cfg} {rem : Nat} {x : Half} {len : Len} (hc : s.cfg? = some c)
    (hx : c.width.fits x = true) (h1 : 1 ≤ rem) (hl : rem ≤ len.toNat) :
    (s.withPend (.calcData rem x len)).pendWf = true := by
  simp [State.pendWf, hc, hx, h1, hl]

/-- Only the host's side changes, of which the invariant says nothing. -/
theorem State.inv_host {s : State} (h : s.inv = true) (host : List HostOp) (reads : List Word) :
    State.inv { s with host := host, reads := reads } = true := h

theorem State.inv_raiseFault {s : State} {code : FaultCode} (h : s.inv = true) (hcode : code ≠ .none) (cmd0 : Word) :
    (raiseFault code cmd0 s).inv = true := by
  obtain ⟨hs, -, -, hr⟩ := State.inv_iff.mp h
  exact State.inv_iff.mpr ⟨hs, rfl, by simp [State.faultWf, hcode], hr⟩

theorem State.inv_respond {s : State} (h : s.inv = true) (v : Half) : (respond v s).inv = true := by
  obtain ⟨hs, hp, hf, -⟩ := State.inv_iff.mp h
  exact State.inv_iff.mpr ⟨hs, hp, hf, nofun⟩

theorem State.inv_withRegister {s : State} {c : Cfg} {r : Half} (h : s.inv = true) (hp : s.pend = .none)
    (hc : c.wf = true) (hr : c.width.fits r = true) : (s.withRegister c r).inv = true := by
  obtain ⟨-, -, hf, hrv⟩ := State.inv_iff.mp h
  exact State.inv_iff.mpr ⟨Bool.and_eq_true_iff.mpr ⟨hc, hr⟩, by simp [State.pendWf, hp], hf, hrv⟩

theorem State.inv_consume {s : State} {c : Cfg} (h : s.inv = true) (hp : s.pend = .none) (hc : c.wf = true) :
    (s.consume c).inv = true := by
  obtain ⟨-, -, hf, hrv⟩ := State.inv_iff.mp h
  exact State.inv_iff.mpr ⟨hc, by simp [State.pendWf, hp], hf, hrv⟩

theorem State.inv_withPend {s : State} {p : Pend} (h : s.inv = true) (hf : s.faulted = false)
    (hp : (s.withPend p).pendWf = true) : (s.withPend p).inv = true := by
  obtain ⟨hs, -, hfw, hrv⟩ := State.inv_iff.mp h
  exact State.inv_iff.mpr ⟨hs, hp, by simpa [State.faultWf, hf] using hfw, hrv⟩

theorem State.inv_engineReset (s : State) : s.engineReset.inv = true := rfl

/-! ### Commands, CMD words and steps keep the invariant -/

/-- An accepted command writes only W-bit values to R and T, and starts a CALC only with bytes to come. -/
theorem Accepted.inv {i : Instr} {s t : State} (ha : Accepted i s t) (h : s.inv = true) (hr : s.Ready) :
    t.inv = true := by
  obtain ⟨hf, hp⟩ := hr
  cases ha with
  | config hw =>
    have hc : (cfgOf _ _ _).wf = true := hw
    exact State.inv_withRegister h hp hc (Cfg.wf_iff.mp hc).2.1
  | init hc =>
    have hwf := State.cfg_wf_of_inv h hc
    obtain ⟨-, hi, -⟩ := Cfg.wf_iff.mp hwf
    exact State.inv_withRegister h hp hwf hi
  | pushbit hs =>
    have hwf := State.cfg_wf_of_inv h (State.cfg?_of_active hs)
    obtain ⟨hpoly, -⟩ := Cfg.wf_iff.mp hwf
    exact State.inv_withRegister h hp hwf (Cfg.shiftXor_fits hpoly _ _)
  | wrbyte hs =>
    have hwf := State.cfg_wf_of_inv h (State.cfg?_of_active hs)
    obtain ⟨hpoly, -⟩ := Cfg.wf_iff.mp hwf
    exact State.inv_withRegister h hp hwf (Cfg.byteFoldBits_fits hpoly _ _)
  | finish hs => exact State.inv_consume (State.inv_respond h _) hp (State.cfg_wf_of_inv h (State.cfg?_of_active hs))
  | verify hs => exact State.inv_consume (State.inv_respond h _) hp (State.cfg_wf_of_inv h (State.cfg?_of_active hs))
  | rdreg hs => exact State.inv_respond h _
  | ldreg hc hv => exact State.inv_withRegister h hp (State.cfg_wf_of_inv h hc) hv
  | calculateEmpty hc => exact State.inv_respond h _
  | @calculate len c _ hc hl =>
    obtain ⟨-, hi, -⟩ := Cfg.wf_iff.mp (State.cfg_wf_of_inv h hc)
    have hlen : len.toNat ≠ 0 := fun e => hl (BitVec.eq_of_toNat_eq e)
    exact State.inv_withPend h hf (State.pendWf_calcData hc hi (by omega) le_rfl)

theorem exec_inv {i : Instr} {s t : State} (h : s.inv = true) (hr : s.Ready) (he : exec i s = .next t) :
    t.inv = true := by
  cases exec_executed he with
  | fault hcode _ => exact State.inv_raiseFault h hcode _
  | accept _ ha => exact ha.inv h hr

theorem calcPayload_inv {s : State} {rem : Nat} {x : Half} {len : Len} (w : Word) (h : s.inv = true)
    (hp : s.pend = .calcData rem x len) : (calcPayload rem x len w s).inv = true := by
  obtain ⟨hf, c, hc, hx, -, hl⟩ := State.calcData_of_inv h hp
  obtain ⟨-, e⟩ | ⟨c', -, -, e⟩ | ⟨c', hc', hr, e⟩ := calcPayload_cases rem x len w s
  · rw [e]; exact State.inv_raiseFault h (by decide) _
  · rw [e]; exact State.inv_respond (State.inv_withPend h hf rfl) _
  · obtain rfl : c = c' := Option.some.inj (hc.symm.trans hc')
    obtain ⟨hpoly, -⟩ := Cfg.wf_iff.mp (State.cfg_wf_of_inv h hc)
    rw [e]
    exact State.inv_withPend h hf (State.pendWf_calcData hc (Cfg.fold_fits hpoly _ _ hx) (by omega) (by omega))

theorem onFirstWord_inv {s t : State} {w : Word} (h : s.inv = true) (hr : s.Ready) (ht : onFirstWord w s = .next t) :
    t.inv = true := by
  obtain ⟨_, -, e⟩ | ⟨w0, -, e⟩ | ⟨i, -, e⟩ := onFirstWord_cases w s
  · cases e.symm.trans ht; exact State.inv_raiseFault h (by decide) _
  · cases e.symm.trans ht; exact State.inv_withPend h hr.1 rfl
  · exact exec_inv h hr (e.symm.trans ht)

theorem onCmd_inv {s t : State} {w : Word} (h : s.inv = true) (ht : onCmd w s = .next t) : t.inv = true := by
  obtain ⟨-, e⟩ | ⟨hf, hp, e⟩ | ⟨w0, hf, -, e⟩ | ⟨rem, x, len, -, hp, e⟩ := onCmd_cases w s
  · cases e.symm.trans ht; exact h
  · exact onFirstWord_inv h ⟨hf, hp⟩ (e.symm.trans ht)
  · exact exec_inv (State.inv_withPend (p := .none) h hf rfl) ⟨hf, rfl⟩ (e.symm.trans ht)
  · cases e.symm.trans ht; exact calcPayload_inv w h hp

/-- Settles O37: by cases on the access the step makes; only a CMD word and reset change what the invariant speaks of. -/
theorem everyStepKeepsInvariant : Obligations.EveryStepKeepsInvariant := by
  intro s t h hst
  obtain ⟨-, rfl⟩ | ⟨rest, w, -, he⟩ | ⟨rest, r, v, -, -, rfl⟩ | ⟨rest, r, -, rfl⟩ | ⟨rest, -, rfl⟩ := step_cases hst
  · exact h
  · exact onCmd_inv (State.inv_host h rest s.reads) he
  · exact State.inv_host h rest s.reads
  · exact State.inv_host h rest _
  · exact State.inv_engineReset _

end Sys2Proof.Machine

/-!
PROOFS. What each command leaves unchanged (10_state.md R25, R27, R33), and what follows for a step of the machine: the
fault record and RV, the session, and the width of a response.
-/
namespace Sys2Proof

/-- The answer of VERIFY is W bits wide under both widths (R155). -/
theorem Width.fits_ite_one_zero (wd : Width) (p : Prop) [Decidable p] : wd.fits (if p then 1#16 else 0#16) = true := by
  split <;> cases wd <;> decide

end Sys2Proof

namespace Sys2Proof.Machine

/-! ### The width of what the datapath answers -/

theorem Cfg.revW_fits (c : Cfg) {v : Half} : c.width.fits (c.revW v) = true := by
  unfold Cfg.revW
  cases c.width with
  | w8 => rw [Width.fits_w8_iff, BitVec.toNat_setWidth]; omega
  | w16 => exact Width.fits_w16 _

/-- The output transform of a W-bit value is a W-bit value (R111). -/
theorem Cfg.out_fits {c : Cfg} {r : Half} (hc : c.wf = true) (hr : c.width.fits r = true) :
    c.width.fits (c.out r) = true := by
  obtain ⟨-, -, hx⟩ := Cfg.wf_iff.mp hc
  unfold Cfg.out
  split
  · exact Width.fits_xor c.revW_fits hx
  · exact Width.fits_xor hr hx

/-! ### The frame of an accepted command -/

section
variable {i : Instr} {s t : State} (ha : Accepted i s t)
include ha

theorem Accepted.host_reads : t.host = s.host ∧ t.reads = s.reads := by
  cases ha <;> exact ⟨rfl, rfl⟩

theorem Accepted.fault_record : t.faulted = s.faulted ∧ t.faultCode = s.faultCode ∧ t.faultCmd = s.faultCmd := by
  cases ha <;> exact ⟨rfl, rfl, rfl⟩

/-- A command other than CONFIG goes on under the configuration it finds (R133). -/
theorem Accepted.cfg? (hi : i.opcode ≠ .config) : t.cfg? = s.cfg? := by
  cases ha with
  | config => exact absurd rfl hi
  | init hc | ldreg hc _ => exact hc.symm
  | pushbit hs | wrbyte hs | finish hs | verify hs => exact (State.cfg?_of_active hs).symm
  | rdreg | calculateEmpty | calculate => rfl

/-- Only a CALC with bytes to come writes PEND (R141). -/
theorem Accepted.pend (hi : i.opcode ≠ .calculate ∨ i = .calculate 0#28) : t.pend = s.pend := by
  cases ha with
  | calculate hc hl =>
    obtain h | h := hi
    · exact absurd rfl h
    · exact absurd (Instr.calculate.inj h) hl
  | _ => rfl

theorem Accepted.session (hi : i.opcode = .rdreg ∨ i.opcode = .calculate) : t.session = s.session := by
  cases ha with
  | rdreg | calculateEmpty | calculate => rfl
  | _ => simp [Instr.opcode] at hi

/-- Only FINISH, VERIFY, RDREG and an empty CALC respond (R27). -/
theorem Accepted.result_rv
    (hi : i.opcode ≠ .finish ∧ i.opcode ≠ .verify ∧ i.opcode ≠ .rdreg ∧ i ≠ .calculate 0#28) :
    t.result = s.result ∧ t.rv = s.rv := by
  obtain ⟨hfinish, hverify, hrdreg, hcalc⟩ := hi
  cases ha with
  | finish => exact absurd rfl hfinish
  | verify => exact absurd rfl hverify
  | rdreg => exact absurd rfl hrdreg
  | calculateEmpty => exact absurd rfl hcalc
  | _ => exact ⟨rfl, rfl⟩

theorem Accepted.rv (h : s.rv = true) : t.rv = true := by
  cases ha with
  | finish | verify | rdreg | calculateEmpty => rfl
  | _ => exact h

/-- The table of R24. -/
theorem Accepted.session_code : t.session.code = sessionAfter i s.session.code := by
  cases ha with
  | rdreg hs => simp [hs, Session.code, sessionAfter]
  | _ => rfl

/-- In a state of the invariant a response is a W-bit value (R27). -/
theorem Accepted.response_fits {c : Cfg} (h : s.inv = true) (hc : s.cfg? = some c)
    (hi : i.opcode = .finish ∨ i.opcode = .verify ∨ i.opcode = .rdreg ∨ i = .calculate 0#28) :
    t.rv = true ∧ c.width.fits t.result = true := by
  have hwf := State.cfg_wf_of_inv h hc
  have heq : ∀ {c' r}, s.session = .active c' r → c' = c := fun hs =>
    Option.some.inj ((State.cfg?_of_active hs).symm.trans hc)
  cases ha with
  | finish hs => obtain rfl := heq hs; exact ⟨rfl, Cfg.out_fits hwf (State.reg_fits_of_inv h hs)⟩
  | verify hs => exact ⟨rfl, Width.fits_ite_one_zero _ _⟩
  | rdreg hs => obtain rfl := heq hs; exact ⟨rfl, State.reg_fits_of_inv h hs⟩
  | calculateEmpty hc' =>
    obtain rfl := Option.some.inj (hc'.symm.trans hc)
    obtain ⟨-, hi, -⟩ := Cfg.wf_iff.mp hwf
    exact ⟨rfl, Cfg.out_fits hwf hi⟩
  | calculate hc' hl => simp [Instr.opcode, hl] at hi
  | _ => simp [Instr.opcode] at hi

end

/-- Settles O32: a fault changes only the fault record and PEND, and an accepted command keeps the frame of its
constructor in `Accepted`. -/
theorem commandFrames : Obligations.CommandFrames := by
  intro i s t he
  cases exec_executed he with
  | fault _ hf => simp [hf]
  | accept hf ha =>
    refine ⟨ha.host_reads.1, ha.host_reads.2, ha.cfg?, fun _ => ha.fault_record, fun _ => ha.pend, fun hi => ?_,
      fun hi => ?_⟩
    · exact ha.session (by simpa [hf] using hi)
    · exact ha.result_rv (by simpa [hf] using hi)

/-! ### Only reset clears a fault or RV -/

theorem exec_rv {i : Instr} {s t : State} (he : exec i s = .next t) (h : s.rv = true) : t.rv = true := by
  cases exec_executed he with
  | fault => exact h
  | accept _ ha => exact ha.rv h

theorem onFirstWord_rv {s t : State} {w : Word} (ht : onFirstWord w s = .next t) (h : s.rv = true) : t.rv = true := by
  obtain ⟨_, -, e⟩ | ⟨w0, -, e⟩ | ⟨i, -, e⟩ := onFirstWord_cases w s
  · cases e.symm.trans ht; exact h
  · cases e.symm.trans ht; exact h
  · exact exec_rv (e.symm.trans ht) h

theorem calcPayload_rv {s : State} (rem : Nat) (x : Half) (len : Len) (w : Word) (h : s.rv = true) :
    (calcPayload rem x len w s).rv = true := by
  obtain ⟨-, e⟩ | ⟨c, -, -, e⟩ | ⟨c, -, -, e⟩ := calcPayload_cases rem x len w s <;> simp [e, h]

theorem onCmd_rv {s t : State} {w : Word} (ht : onCmd w s = .next t) (h : s.rv = true) : t.rv = true := by
  obtain ⟨-, e⟩ | ⟨-, -, e⟩ | ⟨w0, -, -, e⟩ | ⟨rem, x, len, -, -, e⟩ := onCmd_cases w s
  · cases e.symm.trans ht; exact h
  · exact onFirstWord_rv (e.symm.trans ht) h
  · exact exec_rv (s := s.withPend .none) (e.symm.trans ht) h
  · cases e.symm.trans ht; exact calcPayload_rv rem x len w h

/-- A faulted engine discards a CMD word (R197). -/
theorem onCmd_of_faulted {s : State} (w : Word) (h : s.faulted = true) : onCmd w s = .next s := by
  simp [onCmd, h]

/-- Settles O36: of the accesses other than reset only a CMD word can change the engine; a faulted engine discards it,
and no meaning clears RV. -/
theorem onlyResetClearsFaultAndResponse : Obligations.OnlyResetClearsFaultAndResponse := by
  intro s t hst hreset
  obtain ⟨-, rfl⟩ | ⟨rest, w, -, he⟩ | ⟨rest, r, v, -, -, rfl⟩ | ⟨rest, r, -, rfl⟩ | ⟨rest, hh, -⟩ := step_cases hst
  · exact ⟨fun h => ⟨h, rfl, rfl⟩, id⟩
  · refine ⟨fun h => ?_, onCmd_rv (s := { s with host := rest }) he⟩
    cases (onCmd_of_faulted (s := { s with host := rest }) w h).symm.trans he
    exact ⟨h, rfl, rfl⟩
  · exact ⟨fun h => ⟨h, rfl, rfl⟩, id⟩
  · exact ⟨fun h => ⟨h, rfl, rfl⟩, id⟩
  · exact absurd hh (hreset rest)

/-! ### The session and the configuration -/

/-- A CONFIG is never a whole command in its first word (R76, R83). -/
theorem opcode_ne_config_of_decodeFirst {w : Word} {i : Instr} (h : decodeFirst w = .ok (.whole i)) :
    i.opcode ≠ .config := by
  unfold decodeFirst at h
  split at h
  · cases h
  · next op _ =>
    cases op with
    | config => simp [operandsOf] at h
    | _ => cases h; exact nofun

theorem exec_cfg? {i : Instr} {s t : State} (he : exec i s = .next t) (hi : i.opcode ≠ .config) : t.cfg? = s.cfg? := by
  cases exec_executed he with
  | fault => rfl
  | accept _ ha => exact ha.cfg? hi

/-- CONFIG faults and leaves CFG alone, or writes the configuration its words spell (R131). -/
theorem exec_config_cases {w0 : ConfigWord} {ini xo : Half} {s t : State} (he : exec (.config w0 ini xo) s = .next t) :
    t.cfg? = s.cfg? ∨ t = s.withRegister (cfgOf w0 ini xo) ini := by
  cases exec_executed he with
  | fault => exact .inl rfl
  | accept _ ha => cases ha; exact .inr rfl

theorem onFirstWord_cfg? {s t : State} {w : Word} (ht : onFirstWord w s = .next t) : t.cfg? = s.cfg? := by
  obtain ⟨_, -, e⟩ | ⟨w0, -, e⟩ | ⟨i, hi, e⟩ := onFirstWord_cases w s
  · cases e.symm.trans ht; rfl
  · cases e.symm.trans ht; rfl
  · exact exec_cfg? (e.symm.trans ht) (opcode_ne_config_of_decodeFirst hi)

theorem calcPayload_cfg? (rem : Nat) (x : Half) (len : Len) (w : Word) (s : State) :
    (calcPayload rem x len w s).cfg? = s.cfg? := by
  obtain ⟨-, e⟩ | ⟨c, -, -, e⟩ | ⟨c, -, -, e⟩ := calcPayload_cases rem x len w s <;> simp [e]

/-- The state after the second word `w` of a CONFIG with the first word `w0` is accepted (R131). -/
def State.configured (s : State) (w0 : ConfigWord) (w : Word) : State :=
  (s.withPend .none).withRegister (cfgOf w0 (initField w) (xoroutField w)) (initField w)

/-- A CMD word leaves CFG alone, unless it completes a CONFIG (R133). -/
theorem onCmd_cfg? {s t : State} {w : Word} (ht : onCmd w s = .next t) :
    t.cfg? = s.cfg? ∨ ∃ w0, s.faulted = false ∧ s.pend = .cfgw1 w0 ∧ t = s.configured w0 w := by
  obtain ⟨-, e⟩ | ⟨-, -, e⟩ | ⟨w0, hf, hp, e⟩ | ⟨rem, x, len, -, -, e⟩ := onCmd_cases w s
  · cases e.symm.trans ht; exact .inl rfl
  · exact .inl (onFirstWord_cfg? (e.symm.trans ht))
  · exact (exec_config_cases (e.symm.trans ht)).imp id fun h => ⟨w0, hf, hp, h⟩
  · cases e.symm.trans ht; exact .inl (calcPayload_cfg? rem x len w s)

/-- A step other than reset leaves CFG alone, unless it stores the second word of a CONFIG to CMD of an engine without a
fault (R133). -/
theorem step_cfg? {s t : State} (hst : step s = .next t) (hreset : ∀ rest, s.host ≠ .reset :: rest) :
    t.cfg? = s.cfg? ∨ ∃ w0 w rest, s.faulted = false ∧ s.pend = .cfgw1 w0 ∧ s.host = HostOp.cmd w :: rest ∧
      t = State.configured { s with host := rest } w0 w := by
  obtain ⟨-, rfl⟩ | ⟨rest, w, hh, he⟩ | ⟨rest, r, v, -, -, rfl⟩ | ⟨rest, r, -, rfl⟩ | ⟨rest, hh, -⟩ := step_cases hst
  · exact .inl rfl
  · exact (onCmd_cfg? he).imp id fun ⟨w0, hf, hp, ht⟩ => ⟨w0, w, rest, hf, hp, hh, ht⟩
  · exact .inl rfl
  · exact .inl rfl
  · exact absurd hh (hreset rest)

/-- Settles O39: an accepted command follows the table; the session is UNCONFIGURED exactly while CFG is absent, and only
CONFIG's second word brings CFG about. -/
theorem sessionTransitions : Obligations.SessionTransitions := by
  refine ⟨fun i s t he => ?_, fun s t hst hreset => ?_⟩
  · cases exec_executed he with
    | fault _ hf => exact ⟨fun h => absurd (hf.symm.trans h) nofun, fun _ => rfl⟩
    | accept hf ha => exact ⟨fun _ => ha.session_code, fun h => absurd hf h⟩
  · obtain hcfg | ⟨w0, w, rest, hf, hp, hh, rfl⟩ := step_cfg? hst hreset
    · have hiff : t.session = .unconfigured ↔ s.session = .unconfigured := by
        rw [← State.cfg?_eq_none, ← State.cfg?_eq_none, hcfg]
      exact ⟨hiff.mp, fun hs ht => absurd (hiff.mpr hs) ht⟩
    · exact ⟨nofun, fun _ _ => ⟨w0, w, rest, hf, hp, hh⟩⟩

/-! ### The width of a response -/

/-- For W = 8 a W-bit value is a byte zero-extended (R7). -/
theorem high_byte_of_fits {c : Cfg} {v : Half} (hw : c.width = .w8) (h : c.width.fits v = true) :
    v.extractLsb' 8 8 = 0#8 := by
  rw [hw] at h
  exact beq_iff_eq.mp h

/-- The last payload word of a CALC answers with a W-bit value (R143). -/
theorem calcPayload_response_fits {s : State} {c : Cfg} {rem : Nat} {x : Half} (len : Len) (w : Word) (hc : s.cfg? = some c)
    (hwf : c.wf = true) (hx : c.width.fits x = true) (hrem : rem ≤ 4) :
    (calcPayload rem x len w s).rv = true ∧ c.width.fits (calcPayload rem x len w s).result = true := by
  obtain ⟨hs, -⟩ | ⟨c', hc', -, e⟩ | ⟨_, -, hr, -⟩ := calcPayload_cases rem x len w s
  · simp [State.cfg?_eq_none.mpr hs] at hc
  · obtain rfl := Option.some.inj (hc.symm.trans hc')
    obtain ⟨hpoly, -⟩ := Cfg.wf_iff.mp hwf
    rw [e]
    exact ⟨rfl, Cfg.out_fits hwf (Cfg.fold_fits hpoly _ _ hx)⟩
  · omega

/-- Settles O41: every response is a W-bit value, since R and T are W bits wide and the output transform keeps W bits. -/
theorem eightBitResponsesAreZeroExtended : Obligations.EightBitResponsesAreZeroExtended := by
  constructor
  · intro i s t c h hc hw hf hi he
    cases exec_executed he with
    | fault _ hf' => exact absurd (hf'.symm.trans hf) nofun
    | accept _ ha => exact (ha.response_fits h hc hi).imp id (high_byte_of_fits hw)
  · intro s t c w rest rem x len h hc hw hp hrem hh hst
    obtain ⟨hf, c', hc', hx, -⟩ := State.calcData_of_inv h hp
    obtain rfl := Option.some.inj (hc.symm.trans hc')
    have ht : t = calcPayload rem x len w { s with host := rest } := by
      rw [step_cmd hh] at hst
      simpa [onCmd, hf, hp] using hst.symm
    rw [ht]
    exact (calcPayload_response_fits (s := { s with host := rest }) len w hc (State.cfg_wf_of_inv h hc) hx hrem).imp id
      (high_byte_of_fits hw)

end Sys2Proof.Machine

/-!
PROOFS. The registers computed from the state (10_state.md R28, R32), field by field, and the separation of the instances
behind one bus (R36, 20_memory.md R67).
-/
namespace Sys2Proof

/-- WSEL = 1 is W = 16 (R76). -/
theorem Width.wsel_iff {wd : Width} : wd.wsel = true ↔ wd = .w16 := by
  cases wd <;> decide

/-- A bit is its one-bit field. -/
theorem getLsbD_of_extract_one {w : Word} {i : Nat} {b : Bool} (h : w.extractLsb' i 1 = BitVec.ofBool b) :
    w.getLsbD i = b := by
  simpa using congrArg (fun v => v.getLsbD 0) h

end Sys2Proof

namespace Sys2Proof.Machine

/-! ### STATUS, CFG0 and CFG1 -/

theorem State.status_session (s : State) : s.status.extractLsb' 0 2 = s.session.code := by
  simp [State.status, extract_or, extract_place_same, extract_place_disjoint]

theorem State.status_faulted (s : State) : s.status.getLsbD 2 = s.faulted :=
  getLsbD_of_extract_one (by simp [State.status, extract_or, extract_place_same, extract_place_disjoint])

theorem State.status_rv (s : State) : s.status.getLsbD 3 = s.rv :=
  getLsbD_of_extract_one (by simp [State.status, extract_or, extract_place_same, extract_place_disjoint])

theorem State.status_pend (s : State) : s.status.getLsbD 4 = s.pendBit :=
  getLsbD_of_extract_one (by simp [State.status, extract_or, extract_place_same, extract_place_disjoint])

theorem State.status_vc (s : State) : s.status.getLsbD 5 = s.vcBit :=
  getLsbD_of_extract_one (by simp [State.status, extract_or, extract_place_same, extract_place_disjoint])

theorem State.status_faultCode (s : State) : s.status.extractLsb' 8 4 = s.codeBits := by
  simp [State.status, extract_or, extract_place_same, extract_place_disjoint]

theorem State.status_reserved (s : State) :
    s.status.extractLsb' 6 2 = 0#2 ∧ s.status.extractLsb' 12 20 = 0#20 := by
  simp [State.status, extract_or, extract_place_disjoint]

theorem State.pendBit_iff {s : State} : s.pendBit = true ↔ s.pend ≠ .none := by
  cases h : s.pend <;> simp [State.pendBit, h]

theorem State.vcBit_iff {s : State} : s.vcBit = true ↔
    ∃ c, s.cfg? = some c ∧ c.refin = false ∧ c.refout = false ∧ c.xorout = 0#16 := by
  cases h : s.cfg? <;> simp [State.vcBit, h, Cfg.verifyCapable_iff]

/-- Settles O19: STATUS is the `|||` of its placed fields, so each reads back at its place. -/
theorem statusFields : Obligations.StatusFields := by
  intro s
  refine ⟨?_, s.status_faulted, s.status_rv, ?_, ?_, s.status_reserved.1, fun hf => ?_, fun hf => ?_,
    s.status_reserved.2⟩
  · rw [s.status_session]; cases s.session <;> rfl
  · rw [s.status_pend, State.pendBit_iff]
  · rw [s.status_vc, State.vcBit_iff]
  · rw [s.status_faultCode]; simp [State.codeBits, hf]
  · rw [s.status_faultCode, State.codeBits, if_pos hf]; cases s.faultCode <;> rfl

/-- CFG0 under a configuration (R32). -/
theorem State.cfg0_fields {s : State} {c : Cfg} (hc : s.cfg? = some c) :
    s.cfg0.extractLsb' 19 13 = 0#13 ∧ s.cfg0.getLsbD 18 = c.refout ∧ s.cfg0.getLsbD 17 = c.refin ∧
      s.cfg0.getLsbD 16 = c.width.wsel ∧ s.cfg0.extractLsb' 0 16 = c.poly := by
  refine ⟨?_, getLsbD_of_extract_one ?_, getLsbD_of_extract_one ?_, getLsbD_of_extract_one ?_, ?_⟩ <;>
    simp [State.cfg0, hc, extract_or, extract_place_same, extract_place_disjoint]

/-- CFG1 under a configuration (R32). -/
theorem State.cfg1_fields {s : State} {c : Cfg} (hc : s.cfg? = some c) :
    s.cfg1.extractLsb' 16 16 = c.init ∧ s.cfg1.extractLsb' 0 16 = c.xorout := by
  simp [State.cfg1, hc, extract_or, extract_place_same, extract_place_disjoint]

/-- Settles O20: CFG0 and CFG1 are 0 where CFG is absent, and else the `|||` of their placed fields. -/
theorem configurationReadback : Obligations.ConfigurationReadback := by
  refine ⟨fun s hs => ?_, fun s c hc => ?_⟩
  · simp [State.cfg0, State.cfg1, State.cfg?_eq_none.mpr hs]
  · obtain ⟨hres, hrefout, hrefin, hwsel, hpoly⟩ := State.cfg0_fields hc
    obtain ⟨hinit, hxorout⟩ := State.cfg1_fields hc
    exact ⟨hres, hrefout, hrefin, by rw [hwsel, Width.wsel_iff], hpoly, hinit, hxorout⟩

/-! ### Instances behind one bus -/

/-- Everything a delivery that answers a next platform does: the one member it is for takes its step. -/
theorem Platform.deliver_next {p q : Platform} {k : Nat} {op : HostOp} (h : p.deliver k op = .next q) :
    ∃ t, q = { p with instances := p.instances.set k t } := by
  unfold Platform.deliver at h
  split at h
  · cases h
  · split at h
    · cases h; exact ⟨_, rfl⟩
    · cases h
    · cases h

/-- An access that answers a next platform is delivered to the member whose window holds its address. -/
theorem Platform.accessAt_next {p q : Platform} {addr k : Nat} {op : Nat → HostOp} (h : p.accessAt addr op = .next q)
    (hk : (locate addr p.instances.length).map Prod.fst = some k) :
    ∃ t, q = { p with instances := p.instances.set k t } := by
  unfold Platform.accessAt at h
  split at h
  · cases h
  · next k' off hl =>
    obtain rfl : k' = k := by simpa [hl] using hk
    exact Platform.deliver_next h

/-- A step at an event for one member writes that member's state and takes the event off the bus. -/
theorem Platform.step_next {p q : Platform} {k : Nat} (h : Platform.step p = .next q) (hk : p.target = some k) :
    ∃ t, q = { instances := p.instances.set k t, bus := p.bus.tail } := by
  obtain ⟨instances, bus⟩ := p
  cases bus with
  | nil => cases hk
  | cons event rest =>
    cases event with
    | write size addr v => exact Platform.accessAt_next (p := ⟨instances, rest⟩) h hk
    | read size addr => exact Platform.accessAt_next (p := ⟨instances, rest⟩) h hk
    | resetOne k' => cases hk; exact Platform.deliver_next (p := ⟨instances, rest⟩) (op := .reset) h
    | resetAll => cases hk

/-- Settles O57: the step sets the state at the target alone. -/
theorem instancesAreIndependent : Obligations.InstancesAreIndependent := by
  intro p q k j h hk hj
  obtain ⟨t, rfl⟩ := Platform.step_next h hk
  exact List.getElem?_set_ne hj.symm

end Sys2Proof.Machine

/-!
PROOFS. The host's accesses to the window (20_memory.md R52 to R58): where the registers stand, which accesses are refused,
and what a load, a store and a reset do, directly and through the bus of a platform.
-/
namespace Sys2Proof.Machine

/-! ### The registers of the window -/

theorem WindowReg.offset_mod_four (r : WindowReg) : r.offset % 4 = 0 := by cases r <;> rfl

/-- Every multiple of 4 in the window is the offset of a register (R54). -/
theorem WindowReg.exists_offset {off : Nat} (hlt : off < 0x20) (hmod : off % 4 = 0) : ∃ r : WindowReg, off = r.offset := by
  have hall : ∀ o < 0x20, o % 4 = 0 → (WindowReg.at? o).isSome = true := by decide
  obtain ⟨r, hr⟩ := Option.isSome_iff_exists.mp (hall off hlt hmod)
  exact ⟨r, WindowReg.offset_of_at? hr⟩

/-- An access of another width or alignment inside the window is refused (R53). -/
theorem access_of_undefined {size off : Nat} (k : WindowReg → Host.Outcome State Fault Refusal) (hlt : off < 0x20)
    (hbad : size ≠ 4 ∨ off % 4 ≠ 0) : access size off k = .refused .undefinedAccess := by
  obtain ⟨hge, -⟩ | ⟨-, -, e⟩ | ⟨r, hsize, hoff, -⟩ := access_cases size off k
  · omega
  · exact e
  · have := r.offset_mod_four
    omega

/-! ### The step at an access -/

/-- What a load returns does not depend on the accesses still to be made. -/
theorem readReg_host (r : WindowReg) (s : State) (host : List HostOp) : readReg r { s with host := host } = readReg r s := by
  cases r <;> rfl

section
variable {s : State} {rest : List HostOp}

theorem step_read {r : WindowReg} (h : s.host = .read 4 r.offset :: rest) :
    step s = .next { s with host := rest, reads := s.reads ++ [readReg r s] } := by
  simp only [step, nextAccess, h, hostStep, access_offset, readReg_host]

theorem step_write {r : WindowReg} {v : Word} (h : s.host = .write 4 r.offset v :: rest) :
    step s = writeReg r v { s with host := rest } := by
  simp only [step, nextAccess, h, hostStep, access_offset]

theorem step_reset (h : s.host = .reset :: rest) : step s = .next { s with host := rest }.engineReset := by
  simp only [step, nextAccess, h, hostStep]

end

/-- Settles O16: both kinds of access go through the one rule of `access`. -/
theorem undefinedAccessIsRefused : Obligations.UndefinedAccessIsRefused := by
  intro s size off v rest hlt hbad
  constructor <;> intro h <;> simp only [step, nextAccess, h, hostStep]
  · exact access_of_undefined _ hlt hbad
  · exact access_of_undefined _ hlt hbad

/-- Settles O14: each of the six offsets is that of its register. -/
theorem windowReadsHaveNoSideEffect : Obligations.WindowReadsHaveNoSideEffect := by
  intro s off rest h
  refine ⟨?_, ?_, ?_, ?_, ?_, ?_⟩ <;> rintro rfl
  · exact step_read (r := .cmd) h
  · exact step_read (r := .result) h
  · exact step_read (r := .status) h
  · exact step_read (r := .faultCmd) h
  · exact step_read (r := .cfg0) h
  · exact step_read (r := .cfg1) h

/-- Settles O15: an offset other than CMD's is that of a register whose stores are ignored. -/
theorem writesBesideCmdAreIgnored : Obligations.WritesBesideCmdAreIgnored := by
  constructor
  · intro s off v rest h hlt hmod hne
    obtain ⟨r, rfl⟩ := WindowReg.exists_offset hlt hmod
    rw [step_write h]
    obtain ⟨rfl, -⟩ | ⟨-, e⟩ := writeReg_cases r v { s with host := rest }
    · exact absurd rfl hne
    · exact e
  · rintro s off rest h (rfl | rfl)
    · exact step_read (r := .reserved18) h
    · exact step_read (r := .reserved1C) h

/-! ### Every defined access completes -/

theorem exec_completes (i : Instr) (s : State) : ∃ t, exec i s = .next t ∧ t.host = s.host := by
  obtain ⟨t, ht⟩ := exec_next i s
  obtain ⟨hhost, -⟩ := commandFrames i s t ht
  exact ⟨t, ht, hhost⟩

theorem onFirstWord_completes (w : Word) (s : State) : ∃ t, onFirstWord w s = .next t ∧ t.host = s.host := by
  obtain ⟨_, -, e⟩ | ⟨w0, -, e⟩ | ⟨i, -, e⟩ := onFirstWord_cases w s
  · exact ⟨_, e, rfl⟩
  · exact ⟨_, e, rfl⟩
  · rw [e]; exact exec_completes i s

theorem calcPayload_host (rem : Nat) (x : Half) (len : Len) (w : Word) (s : State) :
    (calcPayload rem x len w s).host = s.host := by
  obtain ⟨-, e⟩ | ⟨c, -, -, e⟩ | ⟨c, -, -, e⟩ := calcPayload_cases rem x len w s <;> simp [e]

/-- The engine never stops on a CMD word, and leaves the host's side alone (R90, R241). -/
theorem onCmd_completes (w : Word) (s : State) : ∃ t, onCmd w s = .next t ∧ t.host = s.host := by
  obtain ⟨-, e⟩ | ⟨-, -, e⟩ | ⟨w0, -, -, e⟩ | ⟨rem, x, len, -, -, e⟩ := onCmd_cases w s
  · exact ⟨s, e, rfl⟩
  · rw [e]; exact onFirstWord_completes w s
  · rw [e]; exact exec_completes (configOf w0 w) (s.withPend .none)
  · exact ⟨_, e, calcPayload_host rem x len w s⟩

theorem writeReg_completes (r : WindowReg) (v : Word) (s : State) : ∃ t, writeReg r v s = .next t ∧ t.host = s.host := by
  obtain ⟨-, e⟩ | ⟨-, e⟩ := writeReg_cases r v s
  · rw [e]; exact onCmd_completes v s
  · exact ⟨s, e, rfl⟩

/-- Settles O17: a defined offset is that of a register, a load of which records its value and a store to which
completes. -/
theorem definedAccessCompletes : Obligations.DefinedAccessCompletes := by
  rintro s op rest h (rfl | ⟨off, hlt, hmod, hop⟩)
  · exact ⟨_, step_reset h, rfl⟩
  · obtain ⟨r, rfl⟩ := WindowReg.exists_offset hlt hmod
    obtain rfl | ⟨v, rfl⟩ := hop
    · exact ⟨_, step_read h, rfl⟩
    · rw [step_write h]; exact writeReg_completes r v { s with host := rest }

/-! ### The windows of a platform -/

/-- A window ends below the windows of all later instances (R52). -/
theorem crcBase_add_le {j k : Nat} (h : j < k) : Config.crcBase j + 0x20 ≤ Config.crcBase k := by
  induction k with
  | zero => omega
  | succ k ih =>
    have hk : Config.crcBase k + 0x20 ≤ Config.crcBase (k + 1) := Nat.le_add_right _ _
    obtain hj | rfl := Nat.lt_succ_iff_lt_or_eq.mp h
    · have := ih hj
      omega
    · exact hk

theorem inWindow_iff {k addr : Nat} :
    inWindow k addr = true ↔ Config.crcBase k ≤ addr ∧ addr < Config.crcBase k + 0x20 := by
  simp [inWindow]

/-- An address of a window is found there, since every later window starts above it (R52). -/
theorem locate_crcBase_add {n k off : Nat} (hk : k < n) (hoff : off < 0x20) :
    locate (Config.crcBase k + off) n = some (k, off) := by
  induction n with
  | zero => omega
  | succ n ih =>
    obtain hlt | rfl := Nat.lt_succ_iff_lt_or_eq.mp hk
    · have hle := crcBase_add_le hlt
      have hout : ¬ inWindow n (Config.crcBase k + off) = true := by rw [inWindow_iff]; omega
      rw [locate, if_neg hout, ih hlt]
    · have hin : inWindow k (Config.crcBase k + off) = true := by rw [inWindow_iff]; omega
      rw [locate, if_pos hin, Nat.add_sub_cancel_left]

theorem Platform.deliver_of_step {p : Platform} {k : Nat} {op : HostOp} {s t : State} (hs : p.instances[k]? = some s)
    (ht : Machine.step { s with host := op :: s.host } = .next t) :
    p.deliver k op = .next { p with instances := p.instances.set k t } := by
  simp only [Platform.deliver, hs, ht]

/-- An access in the window of a member, at the bus, is the member's step on it (R52, R67). -/
theorem Platform.accessAt_of_step {p : Platform} {k off : Nat} {op : Nat → HostOp} {s t : State}
    (hs : p.instances[k]? = some s) (hoff : off < 0x20) (ht : Machine.step { s with host := op off :: s.host } = .next t) :
    p.accessAt (Config.crcBase k + off) op = .next { p with instances := p.instances.set k t } := by
  obtain ⟨hk, -⟩ := List.getElem?_eq_some_iff.mp hs
  simp only [Platform.accessAt, locate_crcBase_add hk hoff]
  exact Platform.deliver_of_step hs ht

/-- Settles O59: the address decodes to the member and the offset, and the delivery is the member's step. -/
theorem platformAccessReachesInstance : Obligations.PlatformAccessReachesInstance := by
  rintro ⟨instances, bus⟩ s k off size v rest hs hoff
  refine ⟨?_, ?_⟩ <;> rintro rfl t ht
  · exact Platform.accessAt_of_step (p := ⟨instances, rest⟩) (op := fun off => .write size off v) hs hoff ht
  · exact Platform.accessAt_of_step (p := ⟨instances, rest⟩) (op := fun off => .read size off) hs hoff ht

end Sys2Proof.Machine

/-!
PROOFS. The bit-wise and the byte-wise fold are one function (40_datapath.md R109), and folding a checksum after its
message clears the register (R114).
-/
namespace Sys2Proof.Machine

/-! ### The bit-wise fold, as shift steps of the register and the byte together -/

/-- A byte in the top 8 bits of the register, where `gen` starts (R105). -/
def Cfg.lead (c : Cfg) (b : Byte) : Half := b.setWidth 16 <<< (c.width.bits - 8)

theorem Cfg.gen_eq (c : Cfg) (b : Byte) : c.gen b = c.genStep^[8] (c.lead b) := rfl

theorem Cfg.topBit_lead (c : Cfg) (b : Byte) : c.topBit (c.lead b) = b.getLsbD 7 := by
  unfold Cfg.topBit Cfg.lead
  cases c.width <;> simp [Width.bits]

/-- Shifting a leading byte drops its top bit. -/
theorem Cfg.shiftXor_false_lead (c : Cfg) (b : Byte) : c.shiftXor false (c.lead b) = c.lead (b <<< 1) := by
  apply BitVec.eq_of_getLsbD_eq
  intro i hi
  unfold Cfg.shiftXor Cfg.lead Cfg.mask
  cases c.width <;> interval_cases i <;> simp [Width.bits]

/-- A shift step is linear (R119). -/
theorem Cfg.genStep_xor (c : Cfg) (x y : Half) : c.genStep (x ^^^ y) = c.genStep x ^^^ c.genStep y := by
  simp only [Cfg.genStep, Cfg.topBit_xor, Cfg.shiftXor_xor]

theorem Cfg.genStep_iterate_xor (c : Cfg) (n : Nat) (x y : Half) :
    c.genStep^[n] (x ^^^ y) = c.genStep^[n] x ^^^ c.genStep^[n] y := by
  induction n generalizing x y with
  | zero => rfl
  | succ n ih => simp only [Function.iterate_succ, Function.comp_apply, Cfg.genStep_xor, ih]

/-- One shift step of the register and a leading byte folds the byte's top bit and leaves the rest of the byte leading. -/
theorem Cfg.genStep_xor_lead (c : Cfg) (r : Half) (b : Byte) :
    c.genStep (r ^^^ c.lead b) = c.bitFold r (b.getLsbD 7) ^^^ c.lead (b <<< 1) := by
  calc c.genStep (r ^^^ c.lead b)
      = c.shiftXor ((c.topBit r ^^ b.getLsbD 7) ^^ false) (r ^^^ c.lead b) := by
        rw [Cfg.genStep, Cfg.topBit_xor, Cfg.topBit_lead, Bool.xor_false]
    _ = c.bitFold r (b.getLsbD 7) ^^^ c.lead (b <<< 1) := by
        rw [Cfg.shiftXor_xor, Cfg.shiftXor_false_lead, Cfg.bitFold]

/-- The first `n` bits of a byte, most significant first. -/
def leadingBits (b : Byte) (n : Nat) : List Bool := (List.range n).map fun k => (b <<< k).getLsbD 7

theorem leadingBits_succ (b : Byte) (n : Nat) : leadingBits b (n + 1) = leadingBits b n ++ [(b <<< n).getLsbD 7] := by
  simp [leadingBits, List.range_succ]

theorem leadingBits_eight (b : Byte) : leadingBits b 8 = byteBits b := by
  simp [leadingBits, byteBits, List.range_succ]

/-- `n` shift steps of the register and a leading byte fold the byte's first `n` bits. -/
theorem Cfg.genStep_iterate_xor_lead (c : Cfg) (r : Half) (b : Byte) (n : Nat) :
    c.genStep^[n] (r ^^^ c.lead b) = (leadingBits b n).foldl c.bitFold r ^^^ c.lead (b <<< n) := by
  induction n with
  | zero => simp [leadingBits]
  | succ n ih =>
    rw [Function.iterate_succ_apply', ih, Cfg.genStep_xor_lead, leadingBits_succ, List.foldl_append, ← BitVec.shiftLeft_add]
    rfl

theorem Cfg.byteFoldBits_eq_genStep (c : Cfg) (r : Half) (b : Byte) :
    c.byteFoldBits r b = c.genStep^[8] (r ^^^ c.lead (c.reflectIn b)) := by
  have hout : c.lead (c.reflectIn b <<< 8) = 0#16 := by
    rw [BitVec.shiftLeft_eq_zero (Nat.le_refl 8)]; simp [Cfg.lead]
  rw [Cfg.genStep_iterate_xor_lead, hout, BitVec.xor_zero, leadingBits_eight, Cfg.byteFoldBits]

/-! ### The bit-wise fold is the byte-wise fold -/

/-- For W = 16 the low byte only moves up in the first 8 shift steps. -/
theorem Cfg.genStep_iterate_of_lt {c : Cfg} (hw : c.width = .w16) {v : Half} (hv : v.toNat < 2 ^ 8) {n : Nat} (hn : n ≤ 8) :
    c.genStep^[n] v = v <<< n := by
  induction n with
  | zero => simp
  | succ n ih =>
    have htop : c.topBit (v <<< n) = false := by
      have : v.getLsbD (15 - n) = false :=
        Nat.testBit_lt_two_pow (lt_of_lt_of_le hv (Nat.pow_le_pow_right (by decide) (by omega)))
      simp [Cfg.topBit, hw, Width.bits, this, -BitVec.getLsbD_eq_getElem]
    have hmask : c.mask = BitVec.allOnes 16 := by simp only [Cfg.mask, hw]; decide
    rw [Function.iterate_succ_apply', ih (by omega), Cfg.genStep, htop, BitVec.shiftLeft_add, Cfg.shiftXor, hmask,
      BitVec.and_allOnes]
    rfl

/-- For W = 8 the register and the byte together are the mixing byte (R103). -/
theorem Cfg.xor_lead_w8 {c : Cfg} (hw : c.width = .w8) {r : Half} (hr : c.width.fits r = true) (b : Byte) :
    r ^^^ c.lead (c.reflectIn b) = c.lead (c.mixingByte r b) := by
  apply BitVec.eq_of_getLsbD_eq
  intro i hi
  simp only [Cfg.mixingByte]
  generalize c.reflectIn b = b'
  by_cases h8 : i < 8
  · simp [Cfg.lead, hw, Width.bits, hi, h8, Bool.xor_comm, -BitVec.getLsbD_eq_getElem]
  · have := Width.getLsbD_of_fits hr (i := i) (by rw [hw]; simpa [Width.bits] using h8)
    simp [Cfg.lead, hw, Width.bits, hi, h8, this, -BitVec.getLsbD_eq_getElem]

/-- For W = 16 the register and the byte together are the mixing byte above the register's low byte (R103). -/
theorem Cfg.xor_lead_w16 {c : Cfg} (hw : c.width = .w16) (r : Half) (b : Byte) :
    r ^^^ c.lead (c.reflectIn b) = (r &&& 0xFF#16) ^^^ c.lead (c.mixingByte r b) := by
  apply BitVec.eq_of_getLsbD_eq
  intro i hi
  simp only [Cfg.mixingByte]
  generalize c.reflectIn b = b'
  interval_cases i <;> simp [Cfg.lead, hw, Width.bits, Bool.xor_comm]

/-- The bit-wise fold of a byte is its byte-wise fold, on every W-bit register (R109). -/
theorem Cfg.byteFoldBits_eq_byteFold {c : Cfg} {r : Half} (hr : c.width.fits r = true) (b : Byte) :
    c.byteFoldBits r b = c.byteFold r b := by
  rw [Cfg.byteFoldBits_eq_genStep]
  cases hw : c.width with
  | w8 => rw [Cfg.xor_lead_w8 hw hr, ← Cfg.gen_eq]; simp only [Cfg.byteFold, hw]
  | w16 =>
    have hlow : (r &&& 0xFF#16).toNat < 2 ^ 8 := by
      rw [BitVec.toNat_and]; exact Nat.and_lt_two_pow _ (by decide)
    have hshift : (r &&& 0xFF#16) <<< 8 = r <<< 8 := by
      apply BitVec.eq_of_getLsbD_eq
      intro i hi
      interval_cases i <;> simp
    rw [Cfg.xor_lead_w16 hw, Cfg.genStep_iterate_xor, Cfg.genStep_iterate_of_lt hw hlow (Nat.le_refl 8), hshift,
      ← Cfg.gen_eq]
    simp only [Cfg.byteFold, hw]

/-- Folding a message byte by byte through the bit-wise fold is `fold` (R109, R110). -/
theorem Cfg.foldl_byteFoldBits {c : Cfg} (hp : c.width.fits c.poly = true) (m : List Byte) {r : Half}
    (hr : c.width.fits r = true) : m.foldl c.byteFoldBits r = c.fold r m := by
  induction m generalizing r with
  | nil => rfl
  | cons b m ih =>
    rw [List.foldl_cons, Cfg.byteFoldBits_eq_byteFold hr, ih (Cfg.byteFold_fits hp r b)]
    rfl

/-! ### A checksum after its message -/

theorem Cfg.out_eq_self {c : Cfg} (hrefout : c.refout = false) (hxo : c.xorout = 0#16) (r : Half) : c.out r = r := by
  simp [Cfg.out, hrefout, hxo]

/-- A byte equal to the top byte of the register cancels it in the mixing byte (R103). -/
theorem Cfg.mixingByte_self {c : Cfg} (hrefin : c.refin = false) (r : Half) :
    c.mixingByte r (r.extractLsb' (c.width.bits - 8) 8) = 0#8 := by
  simp [Cfg.mixingByte, Cfg.reflectIn, hrefin]

/-- Folding the register's own bytes, most significant first, shifts it out (R114). -/
theorem Cfg.fold_checksumBytes_self {c : Cfg} (hrefin : c.refin = false) (r : Half) :
    c.fold r (c.checksumBytes r) = 0#16 := by
  have hmix := fun v => Cfg.mixingByte_self hrefin v
  cases hw : c.width with
  | w8 =>
    simp only [hw, Width.bits] at hmix
    simp [Cfg.fold, Cfg.checksumBytes, Cfg.byteFold, hw, hmix, Cfg.gen_zero]
  | w16 =>
    have hnext : (r <<< 8).extractLsb' 8 8 = r.extractLsb' 0 8 := by
      apply BitVec.eq_of_getLsbD_eq
      intro i hi
      simp [hi, show 8 + i < 16 by omega, -BitVec.getLsbD_eq_getElem]
    have hmix' : c.mixingByte (r <<< 8) (r.extractLsb' 0 8) = 0#8 := by
      simpa only [hw, Width.bits, hnext] using hmix (r <<< 8)
    simp only [hw, Width.bits] at hmix
    simp [Cfg.fold, Cfg.checksumBytes, Cfg.byteFold, hw, hmix, hmix', Cfg.gen_zero, ← BitVec.shiftLeft_add]

/-- The append-verify law from any register, for a verify-capable configuration (R114). -/
theorem Cfg.fold_append_checksum {c : Cfg} (hrefin : c.refin = false) (hrefout : c.refout = false) (hxo : c.xorout = 0#16)
    (r : Half) (m : List Byte) : c.fold r (m ++ c.checksumBytes (c.out (c.fold r m))) = 0#16 := by
  rw [Cfg.fold_append, Cfg.out_eq_self hrefout hxo, Cfg.fold_checksumBytes_self hrefin]

theorem Cfg.length_checksumBytes (c : Cfg) (v : Half) : (c.checksumBytes v).length = c.width.bits / 8 := by
  unfold Cfg.checksumBytes
  cases c.width <;> simp [Width.bits]

end Sys2Proof.Machine

/-!
PROOFS. Runs of whole commands on an engine that takes a command (43_streaming.md R151, R153, R155): one step per command,
one byte folded per WRBYTE.
-/
namespace Sys2Proof

/-- The first word of a command selects its own row (R79). -/
theorem select_firstWord (i : Instr) : select i.firstWord = .ok i.opcode := by
  simp [select, opField_firstWord, reservedZero_firstWord]

/-- The first word of a command other than CONFIG spells the whole command (R83). -/
theorem decodeFirst_firstWord {i : Instr} (hi : i.opcode ≠ .config) : decodeFirst i.firstWord = .ok (.whole i) := by
  simp only [decodeFirst, select_firstWord]
  cases i with
  | config => exact absurd rfl hi
  | init | finish | verify | rdreg => rfl
  | pushbit d => simp [operandsOf, Instr.opcode, dataField_pushbit]
  | wrbyte d => simp [operandsOf, Instr.opcode, dataField_wrbyte]
  | ldreg v => simp [operandsOf, Instr.opcode, valueField_ldreg]
  | calculate len => simp [operandsOf, Instr.opcode, lenField_calc]

end Sys2Proof

namespace Sys2Proof.Machine

theorem cmds_append (ws vs : List Word) : cmds (ws ++ vs) = cmds ws ++ cmds vs := List.map_append

/-- The step at the words of a command other than CONFIG executes it (R90). -/
theorem step_encode {i : Instr} {s : State} {rest : List HostOp} (hi : i.opcode ≠ .config) (hready : s.Ready)
    (hhost : s.host = cmds (encode i) ++ rest) : step s = exec i { s with host := rest } := by
  obtain ⟨hfaulted, hpend⟩ := hready
  have henc : encode i = [i.firstWord] := by
    cases i with
    | config => exact absurd rfl hi
    | _ => rfl
  have hcmd : s.host = HostOp.cmd i.firstWord :: rest := by rw [hhost, henc]; rfl
  rw [step_cmd hcmd]
  simp [onCmd, hfaulted, hpend, onFirstWord, decodeFirst_firstWord hi]

theorem exec_init_of_cfg {s : State} {c : Cfg} (hc : s.cfg? = some c) : exec .init s = .next (s.withRegister c c.init) :=
  congrArg Host.Outcome.next (withCfg_of_cfg hc)

theorem exec_wrbyte_of_active {s : State} {c : Cfg} {r : Half} (hs : s.session = .active c r) (b : Byte) :
    exec (.wrbyte b) s = .next (s.withRegister c (c.byteFoldBits r b)) :=
  congrArg Host.Outcome.next (withReg_of_active hs)

/-- On a verify-capable configuration VERIFY completes for either value of VERIFY_GUARD (R155, R156). -/
theorem exec_verify_of_active {s : State} {c : Cfg} {r : Half} (hs : s.session = .active c r) (hvc : c.verifyCapable = true) :
    exec .verify s = .next ((respond (if verifyPred r then 1#16 else 0#16) s).consume c) := by
  simp [exec, execVerify, withReg_of_active hs, hvc]

/-! ### The same, as steps at their words -/

section
variable {s : State} {c : Cfg} {rest : List HostOp} (hready : s.Ready)
include hready

theorem step_init (hc : s.cfg? = some c) (hhost : s.host = cmds (encode .init) ++ rest) :
    step s = .next { s with host := rest, session := .active c c.init } :=
  (step_encode (i := .init) nofun hready hhost).trans (exec_init_of_cfg (s := { s with host := rest }) hc)

theorem step_wrbyte {r : Half} {b : Byte} (hs : s.session = .active c r) (hhost : s.host = cmds (encode (.wrbyte b)) ++ rest) :
    step s = .next { s with host := rest, session := .active c (c.byteFoldBits r b) } :=
  (step_encode (i := .wrbyte b) nofun hready hhost).trans (exec_wrbyte_of_active (s := { s with host := rest }) hs b)

theorem step_verify {r : Half} (hs : s.session = .active c r) (hvc : c.verifyCapable = true)
    (hhost : s.host = cmds (encode .verify) ++ rest) :
    step s = .next { s with
      host := rest, session := .finished c, result := if verifyPred r then 1#16 else 0#16, rv := true } :=
  (step_encode (i := .verify) nofun hready hhost).trans (exec_verify_of_active (s := { s with host := rest }) hs hvc)

end

/-- Writing a message folds it into the live register, one step per byte (R153). -/
theorem run_writeWords {c : Cfg} (m : List Byte) {s : State} {r : Half} {rest : List HostOp} (hready : s.Ready)
    (hs : s.session = .active c r) (hhost : s.host = cmds (writeWords m) ++ rest) :
    run m.length s = .next { s with host := rest, session := .active c (m.foldl c.byteFoldBits r) } := by
  induction m generalizing s r with
  | nil => cases s; cases hs; cases hhost; rfl
  | cons b m ih =>
    have hhost' : s.host = cmds (encode (.wrbyte b)) ++ (cmds (writeWords m) ++ rest) := by
      rw [hhost, ← List.append_assoc, ← cmds_append]; rfl
    rw [List.length_cons, run_succ (step_wrbyte hready hs hhost')]
    exact ih hready rfl rfl

/-- `INIT; WRITE M; VERIFY` on a verify-capable configuration answers whether M folds CFG.INIT to 0 (R151, R153, R155). -/
theorem run_init_write_verify {s : State} {c : Cfg} {m : List Byte} {rest : List HostOp} (hready : s.Ready)
    (hc : s.cfg? = some c) (hwf : c.wf = true) (hvc : c.verifyCapable = true)
    (hhost : s.host = cmds (encode .init ++ writeWords m ++ encode .verify) ++ rest) :
    run (m.length + 2) s = .next { s with
      host := rest, session := .finished c, result := if verifyPred (c.fold c.init m) then 1#16 else 0#16, rv := true } := by
  obtain ⟨hpoly, hinit, -⟩ := Cfg.wf_iff.mp hwf
  have hhost' : s.host = cmds (encode .init) ++ (cmds (writeWords m) ++ (cmds (encode .verify) ++ rest)) := by
    rw [hhost, cmds_append, cmds_append, List.append_assoc, List.append_assoc]
  have hwrites := run_writeWords m
    (s := { s with host := cmds (writeWords m) ++ (cmds (encode .verify) ++ rest), session := .active c c.init }) hready rfl rfl
  have hverify := step_verify
    (s := { s with host := cmds (encode .verify) ++ rest, session := .active c (c.fold c.init m) }) hready rfl hvc rfl
  rw [Cfg.foldl_byteFoldBits hpoly m hinit] at hwrites
  rw [run_succ (step_init hready hc hhost'), run_add hwrites, run_one, hverify]

/-- Settles O54: a message with its checksum behind it is one message, which folds CFG.INIT to 0. -/
theorem sentMessageVerifies : Obligations.SentMessageVerifies := by
  intro s c m hready hc hwf hrefin hrefout hxo
  have hlen := c.length_checksumBytes (c.out (c.fold c.init m))
  have hfold := Cfg.fold_append_checksum hrefin hrefout hxo c.init m
  generalize c.checksumBytes (c.out (c.fold c.init m)) = sum at hlen hfold ⊢
  have hwords : encode .init ++ writeWords m ++ writeWords sum ++ encode .verify =
      encode .init ++ writeWords (m ++ sum) ++ encode .verify := by
    simp only [writeWords, List.flatMap_append, List.append_assoc]
  have hrun := run_init_write_verify (m := m ++ sum) (rest := [])
    (s := { s with host := cmds (encode .init ++ writeWords (m ++ sum) ++ encode .verify) })
    hready hc hwf (Cfg.verifyCapable_iff.mpr ⟨hrefin, hrefout, hxo⟩) (List.append_nil _).symm
  rw [hfold, List.length_append, hlen] at hrun
  rw [hwords]
  exact hrun

end Sys2Proof.Machine

/-!
PROOFS. Decoding and encoding are inverse, and selection is the mask and match of the opcode table (30_encoding.md R72 to
R83). A first word is three fields: the opcode, the reserved bits and, lowest, the operand bits of its row.
-/
namespace Sys2Proof

/-! ### The three fields of a first word -/

/-- How many bits, from bit 0 up, hold the operands in a first word of this row; the bits from there to 27 are reserved
(R73 to R77). -/
def Opcode.operandBits : Opcode → Nat
  | .config => 19
  | .pushbit | .wrbyte => 8
  | .ldreg => 16
  | .calculate => 28
  | .init | .finish | .verify | .rdreg => 0

theorem Opcode.operandBits_le (op : Opcode) : op.operandBits ≤ 28 := by cases op <;> decide

theorem reservedZero_iff {op : Opcode} {w : Word} :
    reservedZero op w = true ↔ w.extractLsb' op.operandBits (28 - op.operandBits) = 0#(28 - op.operandBits) := by
  cases op with
  | calculate => exact iff_of_true rfl BitVec.of_length_zero
  | _ => exact beq_iff_eq

/-- A first word selects a row by its opcode and its reserved bits (R79, R81). -/
theorem select_eq_ok {w : Word} {op : Opcode} : select w = .ok op ↔ opField w = op.code ∧ reservedZero op w = true := by
  unfold select
  constructor
  · intro h
    split at h
    · cases h
    · next op' hop =>
      split at h
      · next hres => cases h; exact ⟨(code_of_opcodeOf hop).symm, hres⟩
      · cases h
  · rintro ⟨hop, hres⟩
    simp [hop, hres]

theorem extract_eq_iff {x y : Word} {lo len : Nat} :
    x.extractLsb' lo len = y.extractLsb' lo len ↔ ∀ i, lo ≤ i → i < lo + len → x.getLsbD i = y.getLsbD i := by
  constructor
  · intro h i hlo hi
    have := congrArg (fun b => b.getLsbD (i - lo)) h
    simpa [show i - lo < len by omega, show lo + (i - lo) = i by omega] using this
  · intro h
    apply BitVec.eq_of_getLsbD_eq
    intro i hi
    simpa [hi] using h (lo + i) (by omega) (by omega)

/-- What stands above the low `n` bits of a word is its opcode and its reserved bits. -/
theorem extract_above_eq_iff {x y : Word} {n : Nat} (hn : n ≤ 28) :
    x.extractLsb' n (32 - n) = y.extractLsb' n (32 - n) ↔
      opField x = opField y ∧ x.extractLsb' n (28 - n) = y.extractLsb' n (28 - n) := by
  simp only [opField, extract_eq_iff]
  constructor
  · intro h
    exact ⟨fun i _ _ => h i (by omega) (by omega), fun i _ _ => h i (by omega) (by omega)⟩
  · rintro ⟨hop, hres⟩ i hlo hi
    by_cases h28 : i < 28
    · exact hres i hlo (by omega)
    · exact hop i (by omega) (by omega)

/-! ### Mask and match -/

/-- A mask with 0 in the low `n` bits and 1 above compares what stands above them. -/
theorem and_mask_eq_iff {n : Nat} (hn : n ≤ 32) {w mask pattern : Word} (hm : mask.extractLsb' 0 n = 0#n)
    (hm' : mask.extractLsb' n (32 - n) = BitVec.allOnes (32 - n)) (hp : pattern.extractLsb' 0 n = 0#n) :
    w &&& mask = pattern ↔ w.extractLsb' n (32 - n) = pattern.extractLsb' n (32 - n) := by
  constructor
  · rintro rfl
    rw [BitVec.extractLsb'_and, hm', BitVec.and_allOnes]
  · exact Laws.SelectsOwnRow.masked_eq n hn w mask pattern hm hm' hp

theorem opField_pattern (op : Opcode) : opField op.pattern = op.code := by cases op <;> decide

theorem reserved_pattern (op : Opcode) :
    op.pattern.extractLsb' op.operandBits (28 - op.operandBits) = 0#(28 - op.operandBits) := by cases op <;> decide

/-- A first word meets the mask and the match of a row when it has the row's opcode and reserved bits (R79). -/
theorem and_mask_eq_pattern_iff {w : Word} {op : Opcode} :
    w &&& op.mask = op.pattern ↔ opField w = op.code ∧ reservedZero op w = true := by
  have hmask : op.mask.extractLsb' 0 op.operandBits = 0#op.operandBits := by cases op <;> decide
  have hmask' : op.mask.extractLsb' op.operandBits (32 - op.operandBits) = BitVec.allOnes (32 - op.operandBits) := by
    cases op <;> decide
  have hpattern : op.pattern.extractLsb' 0 op.operandBits = 0#op.operandBits := by cases op <;> decide
  have hle := op.operandBits_le
  rw [and_mask_eq_iff (by omega) hmask hmask' hpattern, extract_above_eq_iff hle, opField_pattern, reserved_pattern,
    reservedZero_iff]

/-- Settles O3: both sides say that the word has the row's opcode and reserved bits. -/
theorem selectAgreesWithOpcodeTable : Obligations.SelectAgreesWithOpcodeTable :=
  fun _ _ => select_eq_ok.trans and_mask_eq_pattern_iff.symm

/-! ### A first word is what it spells -/

/-- The row of what a first word spells. -/
def FirstWord.opcode : FirstWord → Opcode
  | .configWord _ => .config
  | .whole i => i.opcode

theorem operandsOf_opcode (op : Opcode) (w : Word) : (operandsOf op w).opcode = op := by cases op <;> rfl

theorem decodeFirst_eq_ok {w : Word} {f : FirstWord} :
    decodeFirst w = .ok f ↔ select w = .ok f.opcode ∧ operandsOf f.opcode w = f := by
  unfold decodeFirst
  constructor
  · intro h
    split at h
    · cases h
    · next op hsel => cases h; rw [operandsOf_opcode]; exact ⟨hsel, rfl⟩
  · rintro ⟨hsel, hops⟩
    simp [hsel, hops]

/-- The fields of a CONFIG first word are its low 19 bits (R76). -/
theorem extract_eq_of_configFields_eq {x y : Word} (h : configFields x = configFields y) :
    x.extractLsb' 0 19 = y.extractLsb' 0 19 := by
  obtain ⟨hrefout, hrefin, hwidth, hpoly⟩ := ConfigWord.mk.inj h
  have hwsel : x.getLsbD 16 = y.getLsbD 16 := by simpa using congrArg Width.wsel hwidth
  rw [extract_eq_iff] at hpoly ⊢
  intro i hlo hi
  by_cases h16 : i < 16
  · exact hpoly i hlo (by omega)
  · obtain rfl | rfl | rfl : i = 16 ∨ i = 17 ∨ i = 18 := by omega
    · exact hwsel
    · exact hrefin
    · exact hrefout

/-- The operands of a row are all its operand bits (R72). -/
theorem extract_eq_of_operandsOf_eq {op : Opcode} {x y : Word} (h : operandsOf op x = operandsOf op y) :
    x.extractLsb' 0 op.operandBits = y.extractLsb' 0 op.operandBits := by
  cases op with
  | config => exact extract_eq_of_configFields_eq (FirstWord.configWord.inj h)
  | pushbit => exact Instr.pushbit.inj (FirstWord.whole.inj h)
  | wrbyte => exact Instr.wrbyte.inj (FirstWord.whole.inj h)
  | ldreg => exact Instr.ldreg.inj (FirstWord.whole.inj h)
  | calculate => exact Instr.calculate.inj (FirstWord.whole.inj h)
  | init | finish | verify | rdreg => exact BitVec.of_length_zero.trans BitVec.of_length_zero.symm

/-- Words that spell the same are the same: opcode, reserved bits and operands are the whole word (R82). -/
theorem decodeFirst_inj {x y : Word} {f : FirstWord} (hx : decodeFirst x = .ok f) (hy : decodeFirst y = .ok f) : x = y := by
  obtain ⟨hxsel, hxops⟩ := decodeFirst_eq_ok.mp hx
  obtain ⟨hysel, hyops⟩ := decodeFirst_eq_ok.mp hy
  obtain ⟨hxop, hxres⟩ := select_eq_ok.mp hxsel
  obtain ⟨hyop, hyres⟩ := select_eq_ok.mp hysel
  rw [reservedZero_iff] at hxres hyres
  have hle := f.opcode.operandBits_le
  apply eq_of_fields_eq f.opcode.operandBits (by omega)
  · exact extract_eq_of_operandsOf_eq (hxops.trans hyops.symm)
  · exact (extract_above_eq_iff hle).mpr ⟨hxop.trans hyop.symm, hxres.trans hyres.symm⟩

/-- A CONFIG first word spells its fields (R76). -/
theorem decodeFirst_toWord (w0 : ConfigWord) : decodeFirst w0.toWord = .ok (.configWord w0) :=
  decodeFirst_eq_ok.mpr ⟨select_firstWord (.config w0 0#16 0#16), congrArg FirstWord.configWord (configFields_toWord w0)⟩

theorem firstWord_of_decodeFirst {w : Word} {i : Instr} (h : decodeFirst w = .ok (.whole i)) : w = i.firstWord :=
  decodeFirst_inj h (decodeFirst_firstWord (Machine.opcode_ne_config_of_decodeFirst h))

theorem toWord_of_decodeFirst {w : Word} {w0 : ConfigWord} (h : decodeFirst w = .ok (.configWord w0)) : w = w0.toWord :=
  decodeFirst_inj h (decodeFirst_toWord w0)

/-- CONFIG's second word is its two fields (R76). -/
theorem secondWord_of_fields (w1 : Word) : place 16 (initField w1) ||| place 0 (xoroutField w1) = w1 :=
  eq_of_fields_eq 16 (by decide) (xoroutField_secondWord _ _) (initField_secondWord _ _)

/-! ### A command and the words after it -/

theorem encode_of_ne_config {i : Instr} (hi : i.opcode ≠ .config) : encode i = [i.firstWord] := by
  cases i with
  | config => exact absurd rfl hi
  | _ => rfl

theorem encode_configOf (w0 : ConfigWord) (w1 : Word) : encode (configOf w0 w1) = [w0.toWord, w1] :=
  congrArg (fun v => [w0.toWord, v]) (secondWord_of_fields w1)

theorem configOf_secondWord (w0 : ConfigWord) (ini xo : Half) :
    configOf w0 (place 16 ini ||| place 0 xo) = .config w0 ini xo := by
  simp [configOf, initField_secondWord, xoroutField_secondWord]

theorem decode_of_whole {w : Word} {i : Instr} (h : decodeFirst w = .ok (.whole i)) (ws : List Word) :
    decode (w :: ws) = .ok (i, ws) := by simp [decode, h]

theorem decode_of_configWord {w : Word} {w0 : ConfigWord} (h : decodeFirst w = .ok (.configWord w0)) (w1 : Word)
    (ws : List Word) : decode (w :: w1 :: ws) = .ok (configOf w0 w1, ws) := by simp [decode, h]

/-- Words that decode begin with one first word, or with the two words of a CONFIG (R83). -/
theorem decode_eq_ok_cases {ws rest : List Word} {i : Instr} (h : decode ws = .ok (i, rest)) :
    (∃ w, ws = w :: rest ∧ decodeFirst w = .ok (.whole i)) ∨
    (∃ w w0 w1, ws = w :: w1 :: rest ∧ decodeFirst w = .ok (.configWord w0) ∧ i = configOf w0 w1) := by
  rcases ws with - | ⟨w, ws⟩
  · cases h
  · rcases hw : decodeFirst w with e | (w0 | j)
    · simp [decode, hw] at h
    · rcases ws with - | ⟨w1, ws⟩
      · simp [decode, hw] at h
      · obtain ⟨rfl, rfl⟩ : configOf w0 w1 = i ∧ ws = rest := by simpa [decode, hw] using h
        exact .inr ⟨w, w0, w1, rfl, hw, rfl⟩
    · obtain ⟨rfl, rfl⟩ : j = i ∧ ws = rest := by simpa [decode, hw] using h
      exact .inl ⟨w, rfl, hw⟩

/-- A first word alone is rejected for what is wrong with it, or as half a CONFIG (R80, R81, R83). -/
theorem decodeFirst_of_decode_error {w : Word} {e : DecodeReject} (h : decode [w] = .error e) (he : e ≠ .needsSecondWord) :
    decodeFirst w = .error e := by
  rcases hw : decodeFirst w with e' | (w0 | i)
  · simpa [decode, hw] using h
  · exact absurd (by simpa [decode, hw] using h.symm) he
  · simp [decode, hw] at h

/-- Settles O1: the first word of a command spells it, and a CONFIG's second word holds its two fields. -/
theorem decodeOfEncode : Obligations.DecodeOfEncode := by
  intro i ws
  cases i with
  | config w0 ini xo =>
    rw [← configOf_secondWord w0 ini xo, encode_configOf]
    exact decode_of_configWord (decodeFirst_toWord w0) _ ws
  | _ => exact decode_of_whole (decodeFirst_firstWord (by nofun)) ws

/-- Settles O2: a first word is the one encoding of what it spells, and a second word that of its two fields. -/
theorem encodeOfDecode : Obligations.EncodeOfDecode := by
  intro ws rest i h
  obtain ⟨w, rfl, hw⟩ | ⟨w, w0, w1, rfl, hw, rfl⟩ := decode_eq_ok_cases h
  · rw [encode_of_ne_config (Machine.opcode_ne_config_of_decodeFirst hw), ← firstWord_of_decodeFirst hw]
    rfl
  · rw [encode_configOf, ← toWord_of_decodeFirst hw]
    rfl

/-- Settles O5: each list of words is the encoding of its command, followed by CALC's payload word. -/
theorem specWordsDecode : Obligations.SpecWordsDecode :=
  ⟨decodeOfEncode (.config ⟨true, true, .w8, 0x0039#16⟩ 0x00FF#16 0x0012#16) [], decodeOfEncode .init [],
    decodeOfEncode (.pushbit 0x01#8) [], decodeOfEncode (.wrbyte 0x31#8) [], decodeOfEncode (.ldreg 0x2672#16) [],
    decodeOfEncode (.calculate 9#28) [0x34333231#32]⟩

end Sys2Proof

/-!
PROOFS. The command processor on the words of one command (30_encoding.md R80 to R83, R90), and bytes pushed bit by bit
(43_streaming.md R152, R160).
-/
namespace Sys2Proof

theorem opcodeOf_of_reserved {x : BitVec 4} (h : x = 0x0#4 ∨ 0xA#4 ≤ x) : opcodeOf x = none := by
  revert x
  decide

theorem decodeFirst_of_select_error {w : Word} {e : DecodeReject} (h : select w = .error e) : decodeFirst w = .error e := by
  simp [decodeFirst, h]

/-- A word with a reserved opcode spells nothing (R80). -/
theorem decodeFirst_of_reserved {w : Word} (h : opField w = 0x0#4 ∨ 0xA#4 ≤ opField w) :
    decodeFirst w = .error .reservedOpcode :=
  decodeFirst_of_select_error (by simp [select, opcodeOf_of_reserved h])

end Sys2Proof

namespace Sys2Proof.Machine

/-! ### The step at a first word -/

section
variable {s : State} {w : Word} {rest : List HostOp} (hready : s.Ready) (hhost : s.host = HostOp.cmd w :: rest)
include hready hhost

theorem step_firstWord : step s = onFirstWord w { s with host := rest } := by
  obtain ⟨hfaulted, hpend⟩ := hready
  rw [step_cmd hhost]
  simp [onCmd, hfaulted, hpend]

theorem step_of_decodeFirst_error {e : DecodeReject} (h : decodeFirst w = .error e) :
    step s = .next ({ s with host := rest }.faultedBy .illegalCommand w) := by
  rw [step_firstWord hready hhost, onFirstWord, h]
  rfl

theorem step_of_configWord {w0 : ConfigWord} (h : decodeFirst w = .ok (.configWord w0)) :
    step s = .next { s with host := rest, pend := .cfgw1 w0 } := by
  rw [step_firstWord hready hhost, onFirstWord, h]
  rfl

theorem step_of_whole {i : Instr} (h : decodeFirst w = .ok (.whole i)) : step s = exec i { s with host := rest } := by
  rw [step_firstWord hready hhost, onFirstWord, h]

end

/-- While a CONFIG waits, the next word is its second word (R83, R131). -/
theorem step_secondWord {s : State} {w0 : ConfigWord} {w1 : Word} {rest : List HostOp} (hfaulted : s.faulted = false)
    (hpend : s.pend = .cfgw1 w0) (hhost : s.host = HostOp.cmd w1 :: rest) :
    step s = exec (configOf w0 w1) { s with host := rest, pend := .none } := by
  rw [step_cmd hhost]
  simp [onCmd, hfaulted, hpend, State.withPend]

/-- While a CALC runs, the next word is its payload (R83, R143). -/
theorem step_payload {s : State} {rem : Nat} {x : Half} {len : Len} {w : Word} {rest : List HostOp}
    (hfaulted : s.faulted = false) (hpend : s.pend = .calcData rem x len) (hhost : s.host = HostOp.cmd w :: rest) :
    step s = .next (calcPayload rem x len w { s with host := rest }) := by
  rw [step_cmd hhost]
  simp [onCmd, hfaulted, hpend]

/-- Settles O4: a word either selects a row, which by the mask and match is the only one it meets, or is rejected. -/
theorem firstWordMatchesOneRowOrFaults : Obligations.FirstWordMatchesOneRowOrFaults := by
  intro s w rest hready hhost
  refine ⟨?_, fun hop => step_of_decodeFirst_error hready hhost (decodeFirst_of_reserved hop)⟩
  simp only [← selectAgreesWithOpcodeTable w, ne_eq]
  cases hsel : select w with
  | ok op =>
    refine .inl ⟨op, ⟨rfl, (select_eq_ok.mp hsel).1⟩, ?_⟩
    rintro op' ⟨hop', -⟩
    exact (Except.ok.inj hop').symm
  | error e => exact .inr ⟨nofun, step_of_decodeFirst_error hready hhost (decodeFirst_of_select_error hsel)⟩

/-- Settles O8: one clause for each thing a CMD word can be. -/
theorem stepRunsDecodedCommand : Obligations.StepRunsDecodedCommand := by
  intro s w rest hhost
  refine ⟨?_, ?_, ?_, ?_, ?_, ?_⟩
  · intro hfaulted
    rw [step_cmd hhost]
    exact onCmd_of_faulted w hfaulted
  · intro w0 hfaulted hpend
    exact step_secondWord hfaulted hpend hhost
  · intro rem x len hfaulted hpend
    exact step_payload hfaulted hpend hhost
  · intro i hready h
    obtain ⟨_, heq, hw⟩ | ⟨_, _, _, heq, -, -⟩ := decode_eq_ok_cases h
    · cases heq
      exact step_of_whole hready hhost hw
    · cases heq
  · rintro w0 hready rfl
    exact step_of_configWord hready hhost (decodeFirst_toWord w0)
  · rintro hready (h | h) <;> exact step_of_decodeFirst_error hready hhost (decodeFirst_of_decode_error h nofun)

/-! ### Runs over the words of a command -/

/-- A CONFIG's two words are two steps: the first waits, the second executes the whole command (R131). -/
theorem run_config {w0 : ConfigWord} {ini xo : Half} {s : State} {rest : List HostOp} (hready : s.Ready)
    (hhost : s.host = cmds (encode (.config w0 ini xo)) ++ rest) :
    run 2 s = exec (.config w0 ini xo) { s with host := rest } := by
  have hfirst := step_of_configWord hready hhost (decodeFirst_toWord w0)
  obtain ⟨hfaulted, hpend⟩ := hready
  have hsecond := step_secondWord (s := { s with host := cmds [place 16 ini ||| place 0 xo] ++ rest, pend := .cfgw1 w0 })
    hfaulted rfl rfl
  rw [configOf_secondWord, ← hpend] at hsecond
  rw [run_succ hfirst, run_one]
  exact hsecond

/-- Settles O9: a command other than CONFIG is one word and one step. -/
theorem stepsOverEncodingExecute : Obligations.StepsOverEncodingExecute := by
  intro i s rest hready hhost
  by_cases hi : i.opcode = .config
  · cases i with
    | config w0 ini xo => exact run_config hready hhost
    | _ => cases hi
  · rw [encode_of_ne_config hi, List.length_singleton, run_one, step_encode hi hready hhost]

/-! ### Pushed bits -/

theorem exec_pushbit_of_active {s : State} {c : Cfg} {r : Half} (hs : s.session = .active c r) (b : Bool) :
    exec (.pushbit (if b then 1#8 else 0#8)) s = .next (s.withRegister c (c.bitFold r b)) := by
  cases b <;> exact congrArg Host.Outcome.next (withReg_of_active hs)

theorem step_pushbit {s : State} {c : Cfg} {r : Half} {b : Bool} {rest : List HostOp} (hready : s.Ready)
    (hs : s.session = .active c r) (hhost : s.host = cmds (encode (.pushbit (if b then 1#8 else 0#8))) ++ rest) :
    step s = .next { s with host := rest, session := .active c (c.bitFold r b) } :=
  (step_encode (i := .pushbit _) nofun hready hhost).trans (exec_pushbit_of_active (s := { s with host := rest }) hs b)

/-- Pushing bits folds them into the live register, one step per bit (R152). -/
theorem run_pushWords {c : Cfg} (bits : List Bool) {s : State} {r : Half} {rest : List HostOp} (hready : s.Ready)
    (hs : s.session = .active c r) (hhost : s.host = cmds (pushWords bits) ++ rest) :
    run bits.length s = .next { s with host := rest, session := .active c (bits.foldl c.bitFold r) } := by
  induction bits generalizing s r with
  | nil => cases s; cases hs; cases hhost; rfl
  | cons b bits ih =>
    have hhost' : s.host = cmds (encode (.pushbit (if b then 1#8 else 0#8))) ++ (cmds (pushWords bits) ++ rest) := by
      rw [hhost, ← List.append_assoc, ← cmds_append]; rfl
    rw [List.length_cons, run_succ (step_pushbit hready hs hhost')]
    exact ih hready rfl rfl

theorem byteBits_rev8 (b : Byte) : byteBits (rev8 b) = (byteBits b).reverse := by
  simp [byteBits, rev8, BitVec.getLsbD_reverse, BitVec.getMsbD, -BitVec.getLsbD_eq_getElem]

/-- The bits WRBYTE folds: the byte's, in the order REFIN gives (R108). -/
theorem Cfg.byteBits_reflectIn (c : Cfg) (b : Byte) :
    byteBits (c.reflectIn b) = if c.refin then (byteBits b).reverse else byteBits b := by
  rw [Cfg.reflectIn, apply_ite byteBits, byteBits_rev8]

/-- Settles O53: both runs fold the same bits in the same order (R160). -/
theorem pushedBitsEqualWrittenByte : Obligations.PushedBitsEqualWrittenByte := by
  intro s c r d rest hready hs
  rw [← c.byteBits_reflectIn d]
  have hpush := run_pushWords (byteBits (c.reflectIn d)) (rest := rest)
    (s := { s with host := cmds (pushWords (byteBits (c.reflectIn d))) ++ rest }) hready hs rfl
  have hwrite := run_writeWords [d] (rest := rest) (s := { s with host := cmds (writeWords [d]) ++ rest }) hready hs rfl
  exact hpush.trans hwrite.symm

end Sys2Proof.Machine

/-!
PROOFS. The packing of a message into payload words (30_encoding.md R77, R86; 42_oneshot.md R142): a word for every four
bytes, filled up with 0.
-/
namespace Sys2Proof.Machine

/-- The first word holds the first four bytes, 0 where the message has ended, and the others the rest of the message. -/
theorem packWords_of_ne_nil {m : List Byte} (hm : m ≠ []) :
    ∃ w, packWords m = w :: packWords (m.drop 4) ∧ ∀ k < 4, w.extractLsb' (8 * k) 8 = m.getD k 0#8 := by
  match m with
  | [] => exact absurd rfl hm
  | [a] | [a, b] | [a, b, c] | a :: b :: c :: d :: rest =>
    refine ⟨_, rfl, fun k hk => ?_⟩
    interval_cases k <;> simp [extract_or, extract_place_same, extract_place_disjoint]

theorem length_packWords (m : List Byte) : (packWords m).length = (m.length + 3) / 4 := by
  by_cases hm : m = []
  · rw [hm]; rfl
  · obtain ⟨w, hw, -⟩ := packWords_of_ne_nil hm
    have hpos := List.length_pos_of_ne_nil hm
    rw [hw, List.length_cons, length_packWords (m.drop 4), List.length_drop]
    omega
termination_by m.length

/-- Every byte of the payload is the byte of the message at its place, or 0 after the end (R142). -/
theorem extract_packWords (m : List Byte) (j : Nat) (hj : j < 4 * (packWords m).length) :
    (packWords m)[j / 4]?.map (fun w => w.extractLsb' (8 * (j % 4)) 8) = some (m.getD j 0#8) := by
  by_cases hm : m = []
  · subst hm; cases hj
  · obtain ⟨w, hw, hbytes⟩ := packWords_of_ne_nil hm
    rw [hw] at hj ⊢
    by_cases h4 : j < 4
    · simp [Nat.div_eq_of_lt h4, Nat.mod_eq_of_lt h4, hbytes j h4]
    · have hpos := List.length_pos_of_ne_nil hm
      obtain ⟨i, rfl⟩ := Nat.exists_eq_add_of_le' (Nat.not_lt.mp h4)
      rw [List.length_cons] at hj
      have ih := extract_packWords (m.drop 4) i (by omega)
      rw [List.getD_eq_getElem?_getD, List.getElem?_drop, Nat.add_comm] at ih
      rw [Nat.add_div_right i four_pos, List.getElem?_cons_succ, Nat.add_mod_right, List.getD_eq_getElem?_getD]
      exact ih
termination_by m.length

/-- Settles O7: every byte of the payload that the message has is the message's, and every other is 0. -/
theorem packedPayloadHoldsTheMessage : Obligations.PackedPayloadHoldsTheMessage := by
  intro m
  refine ⟨length_packWords m, fun j b hb => ?_, fun j hlen hj => ?_⟩
  · obtain ⟨hlt, -⟩ := List.getElem?_eq_some_iff.mp hb
    rw [extract_packWords m j (by rw [length_packWords]; omega), List.getD_eq_getElem?_getD, hb]
    rfl
  · rw [extract_packWords m j hj, List.getD_eq_default _ _ hlen]

end Sys2Proof.Machine

/-!
PROOFS. The datapath bit by bit (40_datapath.md R101, R107, R111), and that its folds are linear (R120).
-/
namespace Sys2Proof

theorem Width.bits_pos (wd : Width) : 0 < wd.bits := by cases wd <;> decide

theorem Width.bits_le_sixteen (wd : Width) : wd.bits ≤ 16 := by cases wd <;> decide

end Sys2Proof

namespace Sys2Proof.Machine

/-- Settles O44, by the equality of the two folds on W-bit registers. -/
theorem bitwiseFoldEqualsByteFold : Obligations.BitwiseFoldEqualsByteFold :=
  fun _ _ b _ hr => Cfg.byteFoldBits_eq_byteFold hr b

/-- Settles O47, by the law from any register, at CFG.INIT. -/
theorem appendVerifyLaw : Obligations.AppendVerifyLaw :=
  fun c m _ hrefin hrefout hxo => Cfg.fold_append_checksum hrefin hrefout hxo c.init m

/-! ### Each operation of the datapath, bit by bit -/

/-- Reversal mirrors the bits (R101). -/
theorem getLsbD_reverse_of_lt {n : Nat} (v : BitVec n) {i : Nat} (hi : i < n) : v.reverse.getLsbD i = v.getLsbD (n - 1 - i) := by
  rw [BitVec.getLsbD_reverse, BitVec.getMsbD, decide_eq_true hi, Bool.true_and]

theorem Cfg.getLsbD_mask (c : Cfg) (i : Nat) : c.mask.getLsbD i = decide (i < c.width.bits) := by
  by_cases hi : i < 16
  · unfold Cfg.mask
    cases c.width <;> interval_cases i <;> decide
  · have := c.width.bits_le_sixteen
    simp [BitVec.getLsbD_of_ge c.mask i (by omega), show ¬ i < c.width.bits by omega]

/-- One shift step, bit by bit: the bit below, XORed with POLY's bit when POLY is XORed in (R105, R107). -/
theorem Cfg.getLsbD_shiftXor {c : Cfg} (hp : c.width.fits c.poly = true) (t : Bool) (v : Half) (i : Nat) :
    (c.shiftXor t v).getLsbD i =
      if i < c.width.bits then (decide (i ≠ 0) && v.getLsbD (i - 1)) ^^ (t && c.poly.getLsbD i) else false := by
  split
  · next hi =>
    have h16 : i < 16 := lt_of_lt_of_le hi c.width.bits_le_sixteen
    cases t <;> simp [Cfg.shiftXor, Cfg.getLsbD_mask, hi, h16, -BitVec.getLsbD_eq_getElem]
  · next hi => exact Width.getLsbD_of_fits (Cfg.shiftXor_fits hp t v) (Nat.not_lt.mp hi)

/-- `rev_W` below bit W mirrors the bits (R101). -/
theorem Cfg.getLsbD_revW (c : Cfg) (v : Half) {i : Nat} (hi : i < c.width.bits) :
    (c.revW v).getLsbD i = v.getLsbD (c.width.bits - 1 - i) := by
  unfold Cfg.revW
  cases hw : c.width with
  | w8 =>
    rw [hw] at hi
    have h8 : i < 8 := hi
    simp [rev8, getLsbD_reverse_of_lt, Width.bits, h8, show i < 16 by omega, show 7 - i < 8 by omega, -BitVec.getLsbD_eq_getElem]
  | w16 =>
    rw [hw] at hi
    exact getLsbD_reverse_of_lt v hi

/-- Settles O42: both reversals are that of a bit vector. -/
theorem reversalMirrorsBits : Obligations.ReversalMirrorsBits :=
  ⟨fun v _ => getLsbD_reverse_of_lt v, fun v _ => getLsbD_reverse_of_lt v⟩

/-- Settles O43: a bit fold is one shift step. -/
theorem bitFoldBits : Obligations.BitFoldBits := by
  intro c r x i hc
  obtain ⟨hp, -⟩ := Cfg.wf_iff.mp hc
  exact Cfg.getLsbD_shiftXor hp _ r i

/-- Settles O45: below bit W by the two cases of REFOUT, above it since the output is a W-bit value. -/
theorem outputReversesThenXors : Obligations.OutputReversesThenXors := by
  intro c r i hc hr
  split
  · next hi => cases h : c.refout <;> simp [Cfg.out, h, Cfg.getLsbD_revW, hi, -BitVec.getLsbD_eq_getElem]
  · next hi => exact Width.getLsbD_of_fits (Cfg.out_fits hc hr) (Nat.not_lt.mp hi)

/-! ### Linearity -/

theorem reverse_xor {n : Nat} (a b : BitVec n) : (a ^^^ b).reverse = a.reverse ^^^ b.reverse := by
  apply BitVec.eq_of_getLsbD_eq
  intro i hi
  simp only [BitVec.getLsbD_xor, getLsbD_reverse_of_lt _ hi]

theorem Cfg.reflectIn_xor (c : Cfg) (a b : Byte) : c.reflectIn (a ^^^ b) = c.reflectIn a ^^^ c.reflectIn b := by
  unfold Cfg.reflectIn
  split
  · exact reverse_xor a b
  · rfl

theorem Cfg.mixingByte_xor (c : Cfg) (r1 r2 : Half) (a b : Byte) :
    c.mixingByte (r1 ^^^ r2) (a ^^^ b) = c.mixingByte r1 a ^^^ c.mixingByte r2 b := by
  simp only [Cfg.mixingByte, Cfg.reflectIn_xor, extract_xor]
  ac_rfl

theorem Cfg.lead_xor (c : Cfg) (a b : Byte) : c.lead (a ^^^ b) = c.lead a ^^^ c.lead b := by
  simp only [Cfg.lead, BitVec.setWidth_xor, BitVec.shiftLeft_xor_distrib]

theorem Cfg.gen_xor (c : Cfg) (a b : Byte) : c.gen (a ^^^ b) = c.gen a ^^^ c.gen b := by
  simp only [Cfg.gen_eq, Cfg.lead_xor, Cfg.genStep_iterate_xor]

/-- The byte fold is linear in register and byte together (R120). -/
theorem Cfg.byteFold_xor (c : Cfg) (r1 r2 : Half) (a b : Byte) :
    c.byteFold (r1 ^^^ r2) (a ^^^ b) = c.byteFold r1 a ^^^ c.byteFold r2 b := by
  unfold Cfg.byteFold
  cases c.width with
  | w8 => simp only [Cfg.mixingByte_xor, Cfg.gen_xor]
  | w16 =>
    simp only [Cfg.mixingByte_xor, Cfg.gen_xor, BitVec.shiftLeft_xor_distrib]
    ac_rfl

/-- The fold is linear in register and message together (R120). -/
theorem Cfg.fold_xor (c : Cfg) {m1 m2 : List Byte} (hlen : m1.length = m2.length) (r1 r2 : Half) :
    c.fold (r1 ^^^ r2) (List.zipWith (fun a b => a ^^^ b) m1 m2) = c.fold r1 m1 ^^^ c.fold r2 m2 := by
  induction m1 generalizing m2 r1 r2 with
  | nil => cases List.length_eq_zero_iff.mp hlen.symm; rfl
  | cons a m1 ih =>
    cases m2 with
    | nil => cases hlen
    | cons b m2 =>
      simp only [Cfg.fold, List.zipWith_cons_cons, List.foldl_cons, Cfg.byteFold_xor]
      exact ih (Nat.succ.inj hlen) _ _

theorem Cfg.revW_xor (c : Cfg) (a b : Half) : c.revW (a ^^^ b) = c.revW a ^^^ c.revW b := by
  unfold Cfg.revW
  cases c.width with
  | w8 => simp only [rev8, extract_xor, reverse_xor, BitVec.setWidth_xor]
  | w16 => exact reverse_xor a b

/-- The output transform is affine (R120). -/
theorem Cfg.out_xor (c : Cfg) (a b : Half) : c.out (a ^^^ b) = c.out a ^^^ c.out b ^^^ c.xorout := by
  have hcancel (u v x : Half) : u ^^^ v ^^^ x = (u ^^^ x) ^^^ (v ^^^ x) ^^^ x := by
    calc u ^^^ v ^^^ x = u ^^^ v ^^^ x ^^^ (x ^^^ x) := by rw [BitVec.xor_self, BitVec.xor_zero]
      _ = (u ^^^ x) ^^^ (v ^^^ x) ^^^ x := by ac_rfl
  unfold Cfg.out
  split
  · rw [Cfg.revW_xor, hcancel]
  · rw [hcancel]

/-- Settles O46, by the linearity of the fold and the affinity of the output transform. -/
theorem foldIsLinear : Obligations.FoldIsLinear :=
  ⟨fun c r1 r2 _ _ hlen => c.fold_xor hlen r1 r2, Cfg.out_xor⟩

end Sys2Proof.Machine

/-!
PROOFS. Sensitivity (40_datapath.md R118): where bit 0 of POLY is set, no shift step loses a bit of a W-bit register, so no
fold loses a bit of the message.
-/
namespace Sys2Proof.Machine

/-- A leading byte lies within the W bits of the register. -/
theorem Cfg.lead_fits (c : Cfg) (b : Byte) : c.width.fits (c.lead b) = true := by
  refine Width.fits_of_getLsbD fun i hi => ?_
  unfold Cfg.lead
  cases hw : c.width with
  | w8 =>
    have h8 : 8 ≤ i := by simpa [hw, Width.bits] using hi
    simp [Width.bits, BitVec.getLsbD_of_ge b i h8, -BitVec.getLsbD_eq_getElem]
  | w16 => exact BitVec.getLsbD_of_ge _ i (by simpa [hw, Width.bits] using hi)

/-- A leading byte reads back. -/
theorem Cfg.extract_lead (c : Cfg) (b : Byte) : (c.lead b).extractLsb' (c.width.bits - 8) 8 = b := by
  apply BitVec.eq_of_getLsbD_eq
  intro i hi
  unfold Cfg.lead
  cases c.width <;> simp [Width.bits, hi, show i < 16 by omega, show 8 + i < 16 by omega, -BitVec.getLsbD_eq_getElem]

theorem Cfg.lead_injective (c : Cfg) : Function.Injective c.lead := fun a b h => by
  rw [← c.extract_lead a, h, c.extract_lead]

theorem Cfg.reflectIn_injective (c : Cfg) : Function.Injective c.reflectIn := fun a b h => by
  unfold Cfg.reflectIn at h
  split at h
  · exact Function.LeftInverse.injective (fun v => BitVec.reverse_reverse_eq) h
  · exact h

section
variable {c : Cfg} (hp : c.width.fits c.poly = true)

include hp in
theorem Cfg.genStep_mapsTo : Set.MapsTo c.genStep {v | c.width.fits v = true} {v | c.width.fits v = true} :=
  fun v _ => Cfg.shiftXor_fits hp _ v

variable (hodd : c.poly.getLsbD 0 = true)
include hp hodd

/-- Bit 0 of the result tells the top bit shifted out, and so whether POLY was XORed in. -/
theorem Cfg.genStep_injOn : Set.InjOn c.genStep {v | c.width.fits v = true} := by
  intro x hx y hy h
  have hbit (i : Nat) := congrArg (fun v => v.getLsbD i) h
  simp only [Cfg.genStep, Cfg.getLsbD_shiftXor hp] at hbit
  have htop : c.topBit x = c.topBit y := by simpa [c.width.bits_pos, hodd, -BitVec.getLsbD_eq_getElem] using hbit 0
  apply BitVec.eq_of_getLsbD_eq
  intro i _
  obtain hi | hi | hi := Nat.lt_trichotomy (i + 1) c.width.bits
  · simpa [hi, htop, -BitVec.getLsbD_eq_getElem] using hbit (i + 1)
  · simpa [Cfg.topBit, ← hi] using htop
  · rw [Width.getLsbD_of_fits hx (Nat.lt_succ_iff.mp hi), Width.getLsbD_of_fits hy (Nat.lt_succ_iff.mp hi)]

/-- The byte fold loses no bit of the register and the byte together. -/
theorem Cfg.byteFold_inj {r1 r2 : Half} (hr1 : c.width.fits r1 = true) (hr2 : c.width.fits r2 = true) {b1 b2 : Byte}
    (h : c.byteFold r1 b1 = c.byteFold r2 b2) : r1 ^^^ c.lead (c.reflectIn b1) = r2 ^^^ c.lead (c.reflectIn b2) := by
  rw [← Cfg.byteFoldBits_eq_byteFold hr1, ← Cfg.byteFoldBits_eq_byteFold hr2, Cfg.byteFoldBits_eq_genStep,
    Cfg.byteFoldBits_eq_genStep] at h
  exact (Cfg.genStep_injOn hp hodd).iterate (Cfg.genStep_mapsTo hp) 8 (Width.fits_xor hr1 (c.lead_fits _))
    (Width.fits_xor hr2 (c.lead_fits _)) h

/-- A fold loses no bit of the register it starts from. -/
theorem Cfg.fold_injOn (m : List Byte) : Set.InjOn (fun r => c.fold r m) {r | c.width.fits r = true} := by
  induction m with
  | nil => exact fun _ _ _ _ h => h
  | cons b m ih =>
    intro r1 hr1 r2 hr2 h
    have hfold := ih (Cfg.byteFold_fits hp r1 b) (Cfg.byteFold_fits hp r2 b) h
    exact (BitVec.xor_left_inj _).mp (Cfg.byteFold_inj hp hodd hr1 hr2 hfold)

/-- Messages that differ in one byte fold to different registers. -/
theorem Cfg.fold_ne_of_byte_ne {r : Half} (hr : c.width.fits r = true) {a b : Byte} (hab : a ≠ b) (before after : List Byte) :
    c.fold r (before ++ a :: after) ≠ c.fold r (before ++ b :: after) := by
  intro h
  rw [Cfg.fold_append, Cfg.fold_append] at h
  have hmid := Cfg.fold_fits hp before r hr
  have hbyte := Cfg.fold_injOn hp hodd after (Cfg.byteFold_fits hp _ a) (Cfg.byteFold_fits hp _ b) h
  have hlead := (BitVec.xor_right_inj _).mp (Cfg.byteFold_inj hp hodd hmid hmid hbyte)
  exact hab (c.reflectIn_injective (c.lead_injective hlead))

end

/-- Reversing a W-bit value twice gives it back (R101). -/
theorem Cfg.revW_revW {c : Cfg} {v : Half} (hv : c.width.fits v = true) : c.revW (c.revW v) = v := by
  apply BitVec.eq_of_getLsbD_eq
  intro i _
  by_cases hi : i < c.width.bits
  · rw [Cfg.getLsbD_revW c _ hi, Cfg.getLsbD_revW c _ (by omega)]
    congr 1
    omega
  · rw [Width.getLsbD_of_fits hv (by omega), Width.getLsbD_of_fits c.revW_fits (by omega)]

/-- The output transform loses no bit of a W-bit register (R111). -/
theorem Cfg.out_injOn (c : Cfg) : Set.InjOn c.out {r | c.width.fits r = true} := by
  intro r1 hr1 r2 hr2 h
  have h := (BitVec.xor_left_inj _).mp h
  split at h
  · rw [← Cfg.revW_revW hr1, h, Cfg.revW_revW hr2]
  · exact h

theorem NamedConfig.cfg_wf (n : NamedConfig) : n.cfg.wf = true := by cases n <;> decide

/-- Bit 0 of POLY is set in every row of R86. -/
theorem NamedConfig.poly_odd (n : NamedConfig) : n.cfg.poly.getLsbD 0 = true := by cases n <;> decide

/-- Flipping a bit changes the byte. -/
theorem xor_one_shiftLeft_ne (b : Byte) {k : Nat} (hk : k < 8) : b ^^^ (1#8 <<< k) ≠ b := by
  intro h
  have := congrArg (fun v => v.getLsbD k) h
  simp [hk, -BitVec.getLsbD_eq_getElem] at this

/-- With POLY = 0 the shift steps of `gen` only move the byte out (R105). -/
theorem Cfg.gen_of_poly_zero {c : Cfg} (hp : c.poly = 0#16) (b : Byte) : c.gen b = 0#16 := by
  have hstep : Function.Semiconj c.lead (fun b => b <<< 1) c.genStep := fun b => by
    rw [← Cfg.shiftXor_false_lead]
    simp [Cfg.genStep, Cfg.shiftXor, hp]
  have hout : (fun b : Byte => b <<< 1)^[8] b = 0#8 := by
    simp [← BitVec.shiftLeft_add]
  rw [Cfg.gen_eq, ← hstep.iterate_right 8 b, hout]
  simp [Cfg.lead]

theorem Cfg.byteFold_of_poly_zero {c : Cfg} (hw : c.width = .w8) (hp : c.poly = 0#16) (r : Half) (b : Byte) :
    c.byteFold r b = 0#16 := by
  simp only [Cfg.byteFold, hw, Cfg.gen_of_poly_zero hp]

/-- With POLY = 0 and W = 8 the first byte already clears the register (R118). -/
theorem Cfg.fold_cons_of_poly_zero {c : Cfg} (hw : c.width = .w8) (hp : c.poly = 0#16) (r : Half) (b : Byte) (m : List Byte) :
    c.fold r (b :: m) = 0#16 := by
  induction m generalizing r b with
  | nil => exact Cfg.byteFold_of_poly_zero hw hp r b
  | cons a m ih => exact ih (c.byteFold r b) a

/-- Settles O48: POLY is odd in each named configuration, so neither the fold nor the output transform loses the flipped
bit. -/
theorem singleBitFlipChangesChecksum : Obligations.SingleBitFlipChangesChecksum := by
  refine ⟨fun n before after b k hk h => ?_, fun c b m hw hp => ?_⟩
  · obtain ⟨hp, hinit, -⟩ := Cfg.wf_iff.mp n.cfg_wf
    have hfold := n.cfg.out_injOn (Cfg.fold_fits hp _ _ hinit) (Cfg.fold_fits hp _ _ hinit) h
    exact Cfg.fold_ne_of_byte_ne hp n.poly_odd hinit (xor_one_shiftLeft_ne b hk) before after hfold
  · rw [Cfg.fold_cons_of_poly_zero hw hp]

end Sys2Proof.Machine

/-!
PROOFS. The fold is the remainder of polynomial division over GF(2) (40_datapath.md R121). Congruence modulo
G = x^W + POLY is equality in the quotient ring `AdjoinRoot G`: there one bit fold multiplies the register by x and adds
the bit times x^W, so a message folds by Horner's rule.
-/
namespace Sys2Proof.Machine

open Polynomial

/-! ### Bits as polynomials -/

/-- A bit as a constant polynomial. -/
noncomputable def bitConst (x : Bool) : (ZMod 2)[X] := if x then 1 else 0

@[simp] theorem bitConst_false : bitConst false = 0 := rfl

theorem bitConst_xor (x y : Bool) : bitConst (x ^^ y) = bitConst x + bitConst y := by
  cases x <;> cases y <;> simp [bitConst, CharTwo.add_self_eq_zero]

theorem bitConst_and (x y : Bool) : bitConst (x && y) = bitConst x * bitConst y := by
  cases x <;> simp [bitConst]

/-- The lowest `n` bits of a value as the coefficients of a polynomial. -/
noncomputable def bitPoly (n : Nat) {w : Nat} (v : BitVec w) : (ZMod 2)[X] :=
  ∑ i ∈ Finset.range n, if v.getLsbD i then X ^ i else 0

theorem bitPoly_eq_sum (n : Nat) {w : Nat} (v : BitVec w) :
    bitPoly n v = ∑ i ∈ Finset.range n, bitConst (v.getLsbD i) * X ^ i := by
  simp only [bitPoly, bitConst, ite_mul, one_mul, zero_mul]

/-- The bits moved up by one, and the top bit that moves out of the range: the polynomial times x. -/
theorem sum_bitConst_shift {n : Nat} (hn : 0 < n) {w : Nat} (v : BitVec w) :
    ∑ i ∈ Finset.range n, bitConst (decide (i ≠ 0) && v.getLsbD (i - 1)) * X ^ i + bitConst (v.getLsbD (n - 1)) * X ^ n =
      bitPoly n v * X := by
  obtain ⟨k, rfl⟩ := Nat.exists_eq_add_of_lt hn
  rw [Nat.zero_add, bitPoly_eq_sum, Finset.sum_range_succ', Finset.sum_range_succ, add_mul, Finset.sum_mul]
  simp [pow_succ, mul_assoc]

/-- Bits that come most significant first, as a polynomial by Horner's rule, are the byte's. -/
theorem foldl_byteBits (b : Byte) : (byteBits b).foldl (fun p x => p * X + bitConst x) 0 = bitPoly 8 b := by
  simp only [byteBits, List.foldl_cons, List.foldl_nil, bitPoly_eq_sum, Finset.sum_range_succ, Finset.sum_range_zero]
  ring

/-! ### One bit fold modulo G -/

/-- `G = x^W + POLY` (R121). -/
noncomputable def Cfg.generator (c : Cfg) : (ZMod 2)[X] := X ^ c.width.bits + bitPoly c.width.bits c.poly

/-- One shift step and the top bit it shifts out: the register times x, with POLY added in when `t` (R105, R107). -/
theorem Cfg.bitPoly_shiftXor {c : Cfg} (hp : c.width.fits c.poly = true) (t : Bool) (v : Half) :
    bitPoly c.width.bits (c.shiftXor t v) + bitConst (c.topBit v) * X ^ c.width.bits =
      bitPoly c.width.bits v * X + bitConst t * bitPoly c.width.bits c.poly := by
  have hbit : ∀ i ∈ Finset.range c.width.bits, bitConst ((c.shiftXor t v).getLsbD i) * X ^ i =
      bitConst (decide (i ≠ 0) && v.getLsbD (i - 1)) * X ^ i + bitConst t * (bitConst (c.poly.getLsbD i) * X ^ i) := by
    intro i hi
    rw [Cfg.getLsbD_shiftXor hp, if_pos (Finset.mem_range.mp hi), bitConst_xor, bitConst_and t]
    ring
  rw [← sum_bitConst_shift c.width.bits_pos v, bitPoly_eq_sum, Finset.sum_congr rfl hbit, Finset.sum_add_distrib,
    ← Finset.mul_sum, ← bitPoly_eq_sum, add_right_comm]
  rfl

/-- One bit fold: the register times x plus the bit times x^W, and G where POLY is XORed in (R107). -/
theorem Cfg.bitPoly_bitFold {c : Cfg} (hp : c.width.fits c.poly = true) (r : Half) (x : Bool) :
    bitPoly c.width.bits (c.bitFold r x) =
      bitPoly c.width.bits r * X + bitConst x * X ^ c.width.bits + bitConst (c.topBit r ^^ x) * c.generator := by
  have h := Cfg.bitPoly_shiftXor hp (c.topBit r ^^ x) r
  have htwo (p : (ZMod 2)[X]) : p + p = 0 := CharTwo.add_self_eq_zero p
  rw [Cfg.bitFold, eq_sub_of_add_eq h, Cfg.generator, CharTwo.sub_eq_add, bitConst_xor]
  linear_combination -htwo (bitConst x * X ^ c.width.bits)

/-- Modulo G a bit fold multiplies the register by x and adds the bit times x^W. -/
theorem Cfg.mk_bitFold {c : Cfg} (hp : c.width.fits c.poly = true) (r : Half) (x : Bool) :
    AdjoinRoot.mk c.generator (bitPoly c.width.bits (c.bitFold r x)) =
      AdjoinRoot.mk c.generator (bitPoly c.width.bits r * X + bitConst x * X ^ c.width.bits) := by
  rw [Cfg.bitPoly_bitFold hp, map_add _ _ (bitConst _ * _), map_mul, AdjoinRoot.mk_self, mul_zero, add_zero]

/-! ### Folds by Horner's rule -/

/-- Where a step multiplies the register by `d` and adds a digit times `e`, a fold is Horner's rule. -/
theorem map_foldl_eq_horner {α σ A B : Type} [CommRing A] [CommRing B] (φ : A →+* B) (step : σ → α → σ)
    (val : σ → A) (digit : α → A) (d e : A) (hstep : ∀ r a, φ (val (step r a)) = φ (val r * d + digit a * e)) (r : σ) (m : List α) :
    φ (val (m.foldl step r)) = φ (val r * d ^ m.length + m.foldl (fun p a => p * d + digit a) 0 * e) := by
  induction m using List.reverseRecOn with
  | nil => simp
  | append_singleton m a ih =>
    simp only [map_add, map_mul] at hstep ih ⊢
    simp only [List.foldl_append, List.foldl_cons, List.foldl_nil, List.length_append, List.length_singleton, hstep, ih,
      map_add, map_mul, pow_succ]
    ring

/-- Modulo G a byte fold multiplies the register by x^8 and adds the byte, as REFIN gives it, times x^W (R108). -/
theorem Cfg.mk_byteFoldBits {c : Cfg} (hp : c.width.fits c.poly = true) (r : Half) (b : Byte) :
    AdjoinRoot.mk c.generator (bitPoly c.width.bits (c.byteFoldBits r b)) =
      AdjoinRoot.mk c.generator
        (bitPoly c.width.bits r * X ^ 8 + bitPoly 8 (c.reflectIn b) * X ^ c.width.bits) := by
  rw [← foldl_byteBits]
  exact map_foldl_eq_horner _ c.bitFold (bitPoly c.width.bits) bitConst X _ (Cfg.mk_bitFold hp) r (byteBits (c.reflectIn b))

/-- Settles O49: bits fold by Horner's rule in x, so bytes fold by Horner's rule in x^8. -/
theorem foldIsPolynomialRemainder : Obligations.FoldIsPolynomialRemainder := by
  intro c r m hc hrefin hr
  obtain ⟨hp, -⟩ := Cfg.wf_iff.mp hc
  have hbyte (r : Half) (b : Byte) := Cfg.mk_byteFoldBits hp r b
  simp only [Cfg.reflectIn, hrefin, Bool.false_eq_true, if_false] at hbyte
  have hfold := map_foldl_eq_horner _ c.byteFoldBits (bitPoly c.width.bits) (bitPoly 8) (X ^ 8) _ hbyte r m
  rw [Cfg.foldl_byteFoldBits hp m hr, ← pow_mul] at hfold
  exact AdjoinRoot.mk_eq_mk.mp hfold

end Sys2Proof.Machine

/-!
PROOFS. The empty message (40_datapath.md R116).
-/
namespace Sys2Proof.Machine

theorem exec_finish_of_active {s : State} {c : Cfg} {r : Half} (hs : s.session = .active c r) :
    exec .finish s = .next ((respond (c.out r) s).consume c) :=
  congrArg Host.Outcome.next (withReg_of_active hs)

theorem exec_calculate_zero_of_cfg {s : State} {c : Cfg} (hc : s.cfg? = some c) :
    exec (.calculate 0#28) s = .next (respond (c.out c.init) s) :=
  congrArg Host.Outcome.next (withCfg_of_cfg hc)

section
variable {s : State} {c : Cfg} {rest : List HostOp} (hready : s.Ready)
include hready

theorem step_finish {r : Half} (hs : s.session = .active c r) (hhost : s.host = cmds (encode .finish) ++ rest) :
    step s = .next { s with host := rest, session := .finished c, result := c.out r, rv := true } :=
  (step_encode (i := .finish) nofun hready hhost).trans (exec_finish_of_active (s := { s with host := rest }) hs)

theorem step_calculate_zero (hc : s.cfg? = some c) (hhost : s.host = cmds (encode (.calculate 0#28)) ++ rest) :
    step s = .next { s with host := rest, result := c.out c.init, rv := true } :=
  (step_encode (i := .calculate 0#28) nofun hready hhost).trans
    (exec_calculate_zero_of_cfg (s := { s with host := rest }) hc)

end

/-- Settles O56: CALC 0 answers in its one step, and FINISH reads the register INIT has just loaded. -/
theorem emptyMessageGivesOutOfInit : Obligations.EmptyMessageGivesOutOfInit := by
  intro s c rest hready hc
  constructor
  · rw [run_one]
    exact step_calculate_zero (s := { s with host := cmds (encode (.calculate 0#28)) ++ rest }) hready hc rfl
  · have hinit := step_init (s := { s with host := cmds (encode .init ++ encode .finish) ++ rest })
      (rest := cmds (encode .finish) ++ rest) hready hc (by rw [cmds_append, List.append_assoc])
    rw [run_succ hinit, run_one]
    exact step_finish (s := { s with host := cmds (encode .finish) ++ rest, session := .active c c.init }) hready rfl rfl

end Sys2Proof.Machine

/-!
PROOFS. CONFIG (41_configuration.md R131 to R133): the check of a command's reserved bits (30_encoding.md R81), the two
words of a CONFIG and its range check, and what can change CFG.
-/
namespace Sys2Proof

/-- A word with a row's opcode and a nonzero reserved field spells nothing (R81). -/
theorem decodeFirst_of_reserved_bits {op : Opcode} {w : Word} (hop : opField w = op.code) (hres : reservedZero op w = false) :
    decodeFirst w = .error .reservedBits :=
  decodeFirst_of_select_error (by simp [select, hop, hres])

/-- A word with CONFIG's opcode and zero reserved bits is the first word of a CONFIG with its fields (R76). -/
theorem decodeFirst_config {w : Word} (hop : opField w = Opcode.config.code) (hres : reservedZero .config w = true) :
    decodeFirst w = .ok (.configWord (configFields w)) :=
  decodeFirst_eq_ok.mpr ⟨select_eq_ok.mpr ⟨hop, hres⟩, rfl⟩

theorem Width.ofWsel_eq_w8_iff {b : Bool} : Width.ofWsel b = .w8 ↔ b = false := by
  cases b <;> decide

/-- A value field is above 0xFF when its high byte is nonzero. -/
theorem high_byte_ne_zero_iff {v : Half} : v.extractLsb' 8 8 ≠ 0#8 ↔ 0xFF < v.toNat :=
  (beq_iff_eq.symm.trans (Width.fits_w8_iff v)).not.trans not_le

/-- A field of a field is a field of the word. -/
theorem extract_extract {w lo len lo' len' : Nat} {x : BitVec w} (h : lo' + len' ≤ len) :
    (x.extractLsb' lo len).extractLsb' lo' len' = x.extractLsb' (lo + lo') len' := by
  apply BitVec.eq_of_getLsbD_eq
  intro i hi
  simp [hi, show lo' + i < len by omega, Nat.add_assoc]

/-- The range check of R132 on the two words of a CONFIG: the high bytes of POLY, INIT and XOROUT in their places. -/
theorem configFields_wf_iff {w0 w1 : Word} :
    (configFields w0).wf (initField w1) (xoroutField w1) = true ↔
      ¬(w0.getLsbD 16 = false ∧
        (w0.extractLsb' 8 8 ≠ 0#8 ∨ w1.extractLsb' 24 8 ≠ 0#8 ∨ w1.extractLsb' 8 8 ≠ 0#8)) := by
  have hpoly : (configFields w0).poly.extractLsb' 8 8 = w0.extractLsb' 8 8 :=
    extract_extract (by decide)
  have hinit : (initField w1).extractLsb' 8 8 = w1.extractLsb' 24 8 := extract_extract (by decide)
  have hxorout : (xoroutField w1).extractLsb' 8 8 = w1.extractLsb' 8 8 := extract_extract (by decide)
  rw [ConfigWord.wf_iff, ← high_byte_ne_zero_iff, ← high_byte_ne_zero_iff, ← high_byte_ne_zero_iff, hpoly, hinit, hxorout]
  exact (and_congr_left' Width.ofWsel_eq_w8_iff).not

end Sys2Proof

namespace Sys2Proof.Machine

/-- Every row's reserved-bit check (R81), whatever the session (R198). -/
theorem rejectsReserved (op : Opcode) : RejectsReserved op.code op.operandBits (28 - op.operandBits) := by
  intro s w rest hready hhost hop hres
  refine step_of_decodeFirst_error hready hhost (decodeFirst_of_reserved_bits hop ?_)
  rwa [← Bool.not_eq_true, reservedZero_iff]

section
variable {w0 : ConfigWord} {ini xo : Half} (s : State)

theorem exec_config_of_wf (h : w0.wf ini xo = true) :
    exec (.config w0 ini xo) s = .next (s.withRegister (cfgOf w0 ini xo) ini) := if_pos h

theorem exec_config_of_not_wf (h : ¬w0.wf ini xo = true) :
    exec (.config w0 ini xo) s = .next (s.faultedBy .illegalConfig w0.toWord) := if_neg h

end

/-- Settles O21: the first word is the word of its fields, and the high bytes the second step checks are those of R132. -/
theorem configTakesTwoWords : Obligations.ConfigTakesTwoWords := by
  refine ⟨rejectsReserved .config, fun s w0 w1 rest hready hhost hop hres => ?_⟩
  have hdecode : decodeFirst w0 = .ok (.configWord (configFields w0)) := decodeFirst_config hop (reservedZero_iff.mpr hres)
  have hword : (configFields w0).toWord = w0 := (toWord_of_decodeFirst hdecode).symm
  refine ⟨configFields w0, hword, step_of_configWord hready hhost hdecode, ?_⟩
  obtain ⟨hfaulted, hpend⟩ := hready
  rw [step_secondWord (s := { s with host := HostOp.cmd w1 :: rest, pend := .cfgw1 (configFields w0) }) hfaulted rfl rfl,
    ← hpend]
  split
  · next hrange =>
    rw [configOf, exec_config_of_not_wf _ fun hwf => configFields_wf_iff.mp hwf hrange, hword]
  · next hrange =>
    rw [configOf, exec_config_of_wf _ (configFields_wf_iff.mpr hrange)]
    rfl

/-- Settles O22: the two clauses are the two outcomes of the range check. -/
theorem configSetsConfigurationInRange : Obligations.ConfigSetsConfigurationInRange := by
  constructor
  · intro s w0 ini xo h
    refine exec_config_of_wf s (ConfigWord.wf_iff.mpr ?_)
    rintro ⟨hw8, habove⟩
    obtain hw16 | ⟨hpoly, hini, hxo⟩ := h
    · cases hw16.symm.trans hw8
    · bv_omega
  · intro s w0 ini xo hw8 habove
    exact exec_config_of_not_wf s fun hwf => ConfigWord.wf_iff.mp hwf ⟨hw8, habove⟩

/-- Settles O40: a step that is no reset leaves CFG alone or accepts the second word of a CONFIG, which raises no fault. -/
theorem onlyConfigAndResetChangeConfiguration : Obligations.OnlyConfigAndResetChangeConfiguration := by
  intro s t hst hne
  by_cases hreset : ∃ rest, s.host = .reset :: rest
  · exact .inl hreset
  · obtain hcfg | ⟨w0, w, rest, hfaulted, hpend, hhost, rfl⟩ := step_cfg? hst (not_exists.mp hreset)
    · exact absurd hcfg hne
    · exact .inr ⟨w0, w, rest, hfaulted, hpend, hhost, hfaulted, rfl⟩

end Sys2Proof.Machine

/-!
PROOFS. The one-shot engine (42_oneshot.md): CALC's first word and its payload words, the run over all of them, and that
it answers what `INIT; WRITE; FINISH` answers (R145).
-/
namespace Sys2Proof

/-! ### The bytes of a payload -/

theorem payloadBytes_four (w : Word) :
    payloadBytes w 4 = [w.extractLsb' 0 8, w.extractLsb' 8 8, w.extractLsb' 16 8, w.extractLsb' 24 8] := rfl

@[simp] theorem length_payloadBytes (w : Word) (k : Nat) : (payloadBytes w k).length = k := by simp [payloadBytes]

/-- The first bytes of a word are the front of its four (R142). -/
theorem payloadBytes_eq_take (w : Word) {k : Nat} (hk : k ≤ 4) : payloadBytes w k = (payloadBytes w 4).take k := by
  rw [payloadBytes, payloadBytes, ← List.map_take, List.take_range, Nat.min_eq_left hk]

/-- All the bytes of some payload words, those after the end of the message included (R142). -/
def payload (ws : List Word) : List Byte := ws.flatMap fun w => payloadBytes w 4

theorem payload_cons (w : Word) (ws : List Word) : payload (w :: ws) = payloadBytes w 4 ++ payload ws := List.flatMap_cons

end Sys2Proof

namespace Sys2Proof.Machine

/-- Unpacking the packed message gives it back (R142). -/
theorem take_payload_packWords (m : List Byte) : (payload (packWords m)).take m.length = m := by
  by_cases hm : m = []
  · rw [hm]; rfl
  · obtain ⟨w, hw, hbytes⟩ := packWords_of_ne_nil hm
    have hpos := List.length_pos_of_ne_nil hm
    have hfront : (payloadBytes w 4).take m.length = m.take 4 := by
      refine List.ext_getElem (by simp [Nat.min_comm]) fun k hk hk' => ?_
      simp only [List.length_take, length_payloadBytes] at hk
      simp [payloadBytes, payloadByte, hbytes k (by omega), show k < m.length by omega]
    have hback := take_payload_packWords (m.drop 4)
    rw [List.length_drop] at hback
    rw [hw, payload_cons, List.take_append, length_payloadBytes, hfront, hback, List.take_append_drop]
termination_by m.length

/-! ### CALC's first word and one payload word -/

theorem firstWord_calculate (len : Len) : (Instr.calculate len).firstWord = 0x90000000#32 ||| len.setWidth 32 := by
  rw [Instr.firstWord, show place 28 Opcode.calculate.code = 0x90000000#32 from rfl, place, BitVec.shiftLeft_zero]

theorem exec_calculate_of_unconfigured {s : State} (hs : s.session = .unconfigured) (len : Len) :
    exec (.calculate len) s = .next (s.faultedBy .noConfig (Instr.calculate len).firstWord) :=
  congrArg Host.Outcome.next (withCfg_of_unconfigured hs)

theorem exec_calculate_of_ne_zero {s : State} {c : Cfg} (hc : s.cfg? = some c) {len : Len} (hlen : len ≠ 0#28) :
    exec (.calculate len) s = .next (s.withPend (.calcData len.toNat c.init len)) :=
  congrArg Host.Outcome.next ((withCfg_of_cfg hc).trans (if_neg hlen))

/-- Settles O30: the session check first, then whether the message is empty. -/
theorem calcStartsOrAnswersEmpty : Obligations.CalcStartsOrAnswersEmpty := by
  refine ⟨fun s len hs => ?_, fun _ _ hc => exec_calculate_zero_of_cfg hc,
    fun _ _ _ hc hlen => exec_calculate_of_ne_zero hc hlen⟩
  rw [← firstWord_calculate]
  exact exec_calculate_of_unconfigured hs len

/-- With a configuration a payload word answers or goes on, as it holds the last byte or not (R143). -/
theorem calcPayload_of_cfg {s : State} {c : Cfg} (hc : s.cfg? = some c) (rem : Nat) (x : Half) (len : Len) (w : Word) :
    calcPayload rem x len w s =
      if rem ≤ 4 then respond (c.out (c.fold x (payloadBytes w rem))) (s.withPend .none)
      else s.withPend (.calcData (rem - 4) (c.fold x (payloadBytes w 4)) len) := by
  obtain ⟨hs, -⟩ | ⟨c', hc', hrem, e⟩ | ⟨c', hc', hrem, e⟩ := calcPayload_cases rem x len w s
  · cases hc.symm.trans (State.cfg?_eq_none.mpr hs)
  · cases hc.symm.trans hc'; rw [e, if_pos hrem]
  · cases hc.symm.trans hc'; rw [e, if_neg (Nat.not_le.mpr hrem)]

section
variable {s : State} {c : Cfg} {rem : Nat} {x : Half} {len : Len} {w : Word} {rest : List HostOp}
  (hfaulted : s.faulted = false) (hpend : s.pend = .calcData rem x len) (hc : s.cfg? = some c)
  (hhost : s.host = HostOp.cmd w :: rest)
include hfaulted hpend hc hhost

theorem step_lastPayload (hrem : rem ≤ 4) : step s = .next { s with
    host := rest, pend := .none, result := c.out (c.fold x ((payloadBytes w 4).take rem)), rv := true } := by
  rw [step_payload hfaulted hpend hhost, calcPayload_of_cfg (s := { s with host := rest }) hc, if_pos hrem,
    payloadBytes_eq_take w hrem]
  rfl

theorem step_fullPayload (hrem : 4 < rem) : step s = .next { s with
    host := rest, pend := .calcData (rem - 4) (c.fold x (payloadBytes w 4)) len } := by
  rw [step_payload hfaulted hpend hhost, calcPayload_of_cfg (s := { s with host := rest }) hc,
    if_neg (Nat.not_le.mpr hrem)]
  rfl

end

/-- Settles O31: the two outcomes of a payload word. -/
theorem calcPayloadWordFolds : Obligations.CalcPayloadWordFolds :=
  fun _ _ _ _ _ _ _ hfaulted hpend hc hhost =>
    ⟨step_lastPayload hfaulted hpend hc hhost, step_fullPayload hfaulted hpend hc hhost⟩

/-- Settles O35: the invariant gives the running CALC its configuration, so the payload word answers or goes on. -/
theorem payloadWordsNeverFault : Obligations.PayloadWordsNeverFault := by
  intro s t w rest rem x len hinv hpend hhost hst
  obtain ⟨hfaulted, c, hc, -⟩ := State.calcData_of_inv hinv hpend
  by_cases hrem : rem ≤ 4
  · cases (step_lastPayload hfaulted hpend hc hhost hrem).symm.trans hst
    exact ⟨hfaulted, rfl⟩
  · cases (step_fullPayload hfaulted hpend hc hhost (Nat.not_le.mp hrem)).symm.trans hst
    exact ⟨hfaulted, rfl⟩

/-! ### The run over a CALC -/

theorem step_calculate {s : State} {c : Cfg} {len : Len} {rest : List HostOp} (hready : s.Ready) (hc : s.cfg? = some c)
    (hlen : len ≠ 0#28) (hhost : s.host = cmds (encode (.calculate len)) ++ rest) :
    step s = .next { s with host := rest, pend := .calcData len.toNat c.init len } :=
  (step_encode (i := .calculate len) nofun hready hhost).trans
    (exec_calculate_of_ne_zero (s := { s with host := rest }) hc hlen)

/-- The payload words of a running CALC fold the bytes still to come into T, four per step, and the last one answers
(R143). -/
theorem run_payload {c : Cfg} {len : Len} {rest : List HostOp} (ws : List Word) {s : State} {rem : Nat} {x : Half}
    (hfaulted : s.faulted = false) (hpend : s.pend = .calcData rem x len) (hc : s.cfg? = some c) (hpos : 0 < rem)
    (hlen : ws.length = (rem + 3) / 4) (hhost : s.host = cmds ws ++ rest) :
    run ws.length s = .next { s with
      host := rest, pend := .none, result := c.out (c.fold x ((payload ws).take rem)), rv := true } := by
  induction ws generalizing s rem x with
  | nil => rw [List.length_nil] at hlen; omega
  | cons w ws ih =>
    rw [List.length_cons] at hlen
    rw [List.length_cons, payload_cons]
    by_cases hrem : rem ≤ 4
    · obtain rfl : ws = [] := List.eq_nil_of_length_eq_zero (by omega)
      rw [List.length_nil, run_one, step_lastPayload hfaulted hpend hc hhost hrem,
        List.take_append_of_le_length (by rwa [length_payloadBytes])]
      rfl
    · have hstep := step_fullPayload hfaulted hpend hc hhost (Nat.not_le.mp hrem)
      have htake : (payloadBytes w 4 ++ payload ws).take rem = payloadBytes w 4 ++ (payload ws).take (rem - 4) := by
        rw [List.take_append, length_payloadBytes, List.take_of_length_le (by rw [length_payloadBytes]; omega)]
      rw [run_succ hstep, htake, Cfg.fold_append]
      exact ih hfaulted rfl hc (by omega) (by omega) rfl

/-- A CALC with its payload answers the checksum of its first LEN bytes (R144). -/
theorem run_calculate {s : State} {c : Cfg} {len : Len} {ws : List Word} {rest : List HostOp} (hready : s.Ready)
    (hc : s.cfg? = some c) (hlen : ws.length = (len.toNat + 3) / 4)
    (hhost : s.host = cmds (encode (.calculate len) ++ ws) ++ rest) :
    run (1 + ws.length) s = .next { s with
      host := rest, result := c.out (c.fold c.init ((payload ws).take len.toNat)), rv := true } := by
  rw [cmds_append, List.append_assoc] at hhost
  by_cases hzero : len = 0#28
  · subst hzero
    obtain rfl : ws = [] := List.eq_nil_of_length_eq_zero hlen
    rw [List.length_nil, run_one]
    exact step_calculate_zero hready hc hhost
  · have hpos : 0 < len.toNat := Nat.pos_of_ne_zero fun h => hzero (BitVec.eq_of_toNat_eq h)
    have hstart := step_calculate hready hc hzero hhost
    obtain ⟨hfaulted, hpend⟩ := hready
    have hpayload := run_payload ws
      (s := { s with host := cmds ws ++ rest, pend := .calcData len.toNat c.init len }) hfaulted rfl hc hpos hlen rfl
    rw [run_add ((run_one s).trans hstart), hpayload, ← hpend]

/-- Settles O51: the run over a CALC, on the bytes of its payload words. -/
theorem calcRunGivesChecksum : Obligations.CalcRunGivesChecksum :=
  fun _ _ _ _ _ hready hc hlen hhost => run_calculate hready hc hlen hhost

/-- A CALC of a packed message answers the message's checksum (R144). -/
theorem run_calculate_packWords {s : State} {c : Cfg} {m : List Byte} {rest : List HostOp} (hready : s.Ready)
    (hc : s.cfg? = some c) (hm : m.length < 2 ^ 28)
    (hhost : s.host = cmds (encode (.calculate (BitVec.ofNat 28 m.length)) ++ packWords m) ++ rest) :
    run (1 + (packWords m).length) s = .next { s with host := rest, result := c.out (c.fold c.init m), rv := true } := by
  have hlen : (BitVec.ofNat 28 m.length).toNat = m.length := by
    rw [BitVec.toNat_ofNat, Nat.mod_eq_of_lt hm]
  rw [run_calculate hready hc (by rw [hlen, length_packWords]) hhost, hlen, take_payload_packWords]

/-! ### The streaming run with the same answer -/

/-- `WRITE M; FINISH` on a W-bit live register answers the checksum of M from it (R153, R154). -/
theorem run_write_finish {s : State} {c : Cfg} {r : Half} {m : List Byte} {rest : List HostOp} (hready : s.Ready)
    (hs : s.session = .active c r) (hwf : c.wf = true) (hr : c.width.fits r = true)
    (hhost : s.host = cmds (writeWords m ++ encode .finish) ++ rest) :
    run (m.length + 1) s = .next { s with
      host := rest, session := .finished c, result := c.out (c.fold r m), rv := true } := by
  obtain ⟨hpoly, -⟩ := Cfg.wf_iff.mp hwf
  rw [cmds_append, List.append_assoc] at hhost
  have hwrites := run_writeWords m hready hs hhost
  rw [Cfg.foldl_byteFoldBits hpoly m hr] at hwrites
  rw [run_add hwrites, run_one]
  exact step_finish (s := { s with host := cmds (encode .finish) ++ rest, session := .active c (c.fold r m) }) hready rfl rfl

/-- `INIT; WRITE M; FINISH` answers the checksum of M from CFG.INIT (R110, R151). -/
theorem run_init_write_finish {s : State} {c : Cfg} {m : List Byte} {rest : List HostOp} (hready : s.Ready)
    (hc : s.cfg? = some c) (hwf : c.wf = true)
    (hhost : s.host = cmds (encode .init ++ writeWords m ++ encode .finish) ++ rest) :
    run (m.length + 2) s = .next { s with
      host := rest, session := .finished c, result := c.out (c.fold c.init m), rv := true } := by
  obtain ⟨-, hinit, -⟩ := Cfg.wf_iff.mp hwf
  rw [List.append_assoc, cmds_append, List.append_assoc] at hhost
  rw [run_succ (step_init hready hc hhost)]
  exact run_write_finish
    (s := { s with host := cmds (writeWords m ++ encode .finish) ++ rest, session := .active c c.init })
    hready rfl hwf hinit rfl

/-- Settles O52: both runs answer `out(fold(CFG.INIT, M))`. -/
theorem calcEqualsStreaming : Obligations.CalcEqualsStreaming := by
  intro s c m hready hc hwf hm
  have hcalc := run_calculate_packWords (rest := []) hready hc hm
    (s := { s with host := cmds (encode (.calculate (BitVec.ofNat 28 m.length)) ++ packWords m) }) (List.append_nil _).symm
  have hstream := run_init_write_finish (rest := []) hready hc hwf
    (s := { s with host := cmds (encode .init ++ writeWords m ++ encode .finish) }) (List.append_nil _).symm
  exact ⟨_, _, hcalc, hstream, hready, hready, rfl, rfl, rfl⟩

end Sys2Proof.Machine

/-!
PROOFS. The streaming commands (43_streaming.md R151 to R158): the faults of a command by the spec's table
(60_exceptions.md R198), what the accepted commands do, and the runs of R158 and R160.
-/
namespace Sys2Proof

theorem place_zero {n : Nat} (v : BitVec n) : place 0 v = v.setWidth 32 := BitVec.shiftLeft_zero _

theorem firstWord_pushbit (d : Byte) : (Instr.pushbit d).firstWord = 0x30000000#32 ||| d.setWidth 32 :=
  congrArg (0x30000000#32 ||| ·) (place_zero d)

theorem firstWord_wrbyte (d : Byte) : (Instr.wrbyte d).firstWord = 0x40000000#32 ||| d.setWidth 32 :=
  congrArg (0x40000000#32 ||| ·) (place_zero d)

theorem firstWord_ldreg (v : Half) : (Instr.ldreg v).firstWord = 0x80000000#32 ||| v.setWidth 32 :=
  congrArg (0x80000000#32 ||| ·) (place_zero v)

end Sys2Proof

namespace Sys2Proof.Machine

/-! ### The faults of a command -/

/-- A command the table names a fault for raises it, with its first word as FAULT_CMD (R191, R198). -/
theorem exec_of_faultOf {i : Instr} {s : State} {code : FaultCode} (h : faultOf i s = some code) :
    exec i s = .next (s.faultedBy code i.firstWord) := by
  obtain ⟨t, ht⟩ := exec_next i s
  rw [ht]
  cases exec_executed ht with
  | fault _ hf => cases hf.symm.trans h; rfl
  | accept hf _ => cases hf.symm.trans h

theorem exec_of_unconfigured {i : Instr} {s : State} (hi : i.opcode ≠ .config) (hs : s.session = .unconfigured) :
    exec i s = .next (s.faultedBy .noConfig i.firstWord) :=
  exec_of_faultOf (faultOf_of_unconfigured hi hs)

theorem exec_of_finished {i : Instr} {s : State} {c : Cfg} (hi : Instr.readsReg i = true) (hs : s.session = .finished c) :
    exec i s = .next (s.faultedBy .regConsumed i.firstWord) :=
  exec_of_faultOf (faultOf_of_finished hi hs)

/-- Where CFG exists, and R if the command reads it, the fault of its own operand check is raised (level 4 of R198). -/
theorem exec_of_operandFault {i : Instr} {s : State} {c : Cfg} {code : FaultCode} (hi : i.opcode ≠ .config)
    (hc : s.cfg? = some c) (hr : Instr.readsReg i = true → ∃ r, s.session = .active c r)
    (hf : Instr.operandFault c i = some code) : exec i s = .next (s.faultedBy code i.firstWord) :=
  exec_of_faultOf ((faultOf_of_cfg hi hc hr).trans hf)

/-! ### Accepted commands -/

theorem exec_rdreg_of_active {s : State} {c : Cfg} {r : Half} (hs : s.session = .active c r) :
    exec .rdreg s = .next (respond r s) :=
  congrArg Host.Outcome.next (withReg_of_active hs)

theorem exec_ldreg_of_fits {s : State} {c : Cfg} {v : Half} (hc : s.cfg? = some c) (hv : c.width.fits v = true) :
    exec (.ldreg v) s = .next (s.withRegister c v) :=
  congrArg Host.Outcome.next ((withCfg_of_cfg hc).trans (if_pos hv))

/-- Without VERIFY_GUARD VERIFY completes on every configuration (R156). -/
theorem exec_verify_of_not_guard {s : State} {c : Cfg} {r : Half} (hs : s.session = .active c r)
    (hguard : Config.verifyGuard = false) :
    exec .verify s = .next ((respond (if verifyPred r then 1#16 else 0#16) s).consume c) := by
  simp [exec, execVerify, withReg_of_active hs, hguard]

/-- VERIFY's answer, as R113 defines the predicate. -/
theorem ite_verifyPred (r : Half) : (if verifyPred r then 1#16 else 0#16) = if r = 0#16 then 1#16 else 0#16 := by
  simp only [verifyPred, beq_iff_eq]

/-! ### The statements -/

/-- Settles O50: the writes fold M into the live register, and FINISH answers from it. -/
theorem streamingRunGivesChecksum : Obligations.StreamingRunGivesChecksum :=
  fun _ _ _ _ _ hready hs hwf hr hhost => run_write_finish hready hs hwf hr hhost

/-- Settles O55: the value RDREG answers is a W-bit register by the invariant, so LDREG takes it. -/
theorem saveAndRestoreResumesSession : Obligations.SaveAndRestoreResumesSession := by
  intro s t u c r hinv hs ht hu
  cases (exec_rdreg_of_active hs).symm.trans ht
  rw [hs]
  exact exec_ldreg_of_fits hu (State.reg_fits_of_inv hinv hs)

/-- Settles O23: the reserved bits, the session check, then CFG.INIT as the register. -/
theorem initStartsNewRegister : Obligations.InitStartsNewRegister :=
  ⟨rejectsReserved .init, fun _ hs => exec_of_unconfigured (i := .init) nofun hs, fun _ _ hc => exec_init_of_cfg hc⟩

/-- Settles O24: DATA above 1 is the operand check of the table. -/
theorem pushbitFoldsOneBit : Obligations.PushbitFoldsOneBit := by
  simp only [Obligations.PushbitFoldsOneBit, ← firstWord_pushbit]
  exact ⟨rejectsReserved .pushbit, fun _ d hs => exec_of_unconfigured (i := .pushbit d) nofun hs,
    fun _ _ _ hs => exec_of_finished rfl hs,
    fun _ d _ r hs hd => exec_of_operandFault (i := .pushbit d) nofun (State.cfg?_of_active hs) (fun _ => ⟨r, hs⟩) (if_pos hd),
    fun _ x _ _ hs => exec_pushbit_of_active hs x⟩

/-- Settles O25: the reserved bits, the two session checks, then the fold of the live register. -/
theorem wrbyteFoldsOneByte : Obligations.WrbyteFoldsOneByte := by
  simp only [Obligations.WrbyteFoldsOneByte, ← firstWord_wrbyte]
  exact ⟨rejectsReserved .wrbyte, fun _ d hs => exec_of_unconfigured (i := .wrbyte d) nofun hs,
    fun _ _ _ hs => exec_of_finished rfl hs, fun _ d _ _ hs => exec_wrbyte_of_active hs d⟩

/-- Settles O26: the reserved bits, the two session checks, then the answer from the live register. -/
theorem finishRespondsAndConsumes : Obligations.FinishRespondsAndConsumes :=
  ⟨rejectsReserved .finish, fun _ hs => exec_of_unconfigured (i := .finish) nofun hs,
    fun _ _ hs => exec_of_finished (i := .finish) rfl hs, fun _ _ _ hs => exec_finish_of_active hs⟩

/-- Settles O27: off the verify-capable configurations the guard alone decides between the fault and the answer. -/
theorem verifyTestsForZeroAndConsumes : Obligations.VerifyTestsForZeroAndConsumes := by
  refine ⟨rejectsReserved .verify, fun _ hs => exec_of_unconfigured (i := .verify) nofun hs,
    fun _ _ hs => exec_of_finished (i := .verify) rfl hs, fun s c r hs hvc => ?_, fun s c r hs hvc => ?_⟩
  · rw [← ite_verifyPred]
    exact exec_verify_of_active hs (Cfg.verifyCapable_iff.mpr hvc)
  · split
    · next hguard =>
      exact exec_of_operandFault (i := .verify) nofun (State.cfg?_of_active hs) (fun _ => ⟨r, hs⟩) (if_pos ⟨hguard, hvc⟩)
    · next hguard =>
      rw [← ite_verifyPred]
      exact exec_verify_of_not_guard hs (Bool.eq_false_iff.mpr hguard)

/-- Settles O28: the reserved bits, the two session checks, then the live register as the answer. -/
theorem rdregRespondsWithRegister : Obligations.RdregRespondsWithRegister :=
  ⟨rejectsReserved .rdreg, fun _ hs => exec_of_unconfigured (i := .rdreg) nofun hs,
    fun _ _ hs => exec_of_finished (i := .rdreg) rfl hs, fun _ _ _ hs => exec_rdreg_of_active hs⟩

/-- Settles O29: the last two clauses are the two outcomes of the range check. -/
theorem ldregSetsRegister : Obligations.LdregSetsRegister := by
  simp only [Obligations.LdregSetsRegister, ← firstWord_ldreg]
  refine ⟨rejectsReserved .ldreg, fun _ v hs => exec_of_unconfigured (i := .ldreg v) nofun hs,
    fun _ v _ hc hw hv => exec_of_operandFault (i := .ldreg v) nofun hc nofun (if_pos ⟨hw, hv⟩), fun s v c hc h => ?_⟩
  refine exec_ldreg_of_fits hc (Width.fits_iff.mpr ?_)
  rintro ⟨hw8, habove⟩
  obtain hw16 | hle := h
  · cases hw16.symm.trans hw8
  · exact absurd habove (Nat.not_lt.mpr hle)

end Sys2Proof.Machine

/-!
PROOFS. Fault entry and the faulted state (60_exceptions.md R191, R197, R198): which steps enter the faulted state and
what they write, and that nothing but reset leaves it.
-/
namespace Sys2Proof

/-- A word in no row of the opcode table spells nothing (R79, R80, R82). -/
theorem decodeFirst_of_no_row {w : Word} (h : ∀ op : Opcode, w &&& op.mask ≠ op.pattern) :
    ∃ e, decodeFirst w = .error e := by
  cases hsel : select w with
  | ok op => exact absurd ((selectAgreesWithOpcodeTable w op).mp hsel) (h op)
  | error e => exact ⟨e, decodeFirst_of_select_error hsel⟩

end Sys2Proof

namespace Sys2Proof.Machine

/-! ### A faulted engine -/

/-- Settles O11: the idle step, a discarded CMD word and an ignored store leave the engine and what the host has read
alone, and a load only adds the register it reads. -/
theorem faultedEngineChangesOnlyByReset : Obligations.FaultedEngineChangesOnlyByReset := by
  intro s t hfaulted hst
  obtain ⟨hh, rfl⟩ | ⟨rest, w, hh, he⟩ | ⟨rest, r, v, hh, -, rfl⟩ | ⟨rest, r, hh, rfl⟩ | ⟨rest, hh, -⟩ := step_cases hst
  · have htail : t.host.tail = t.host := by rw [hh]; rfl
    exact .inr ⟨t.reads, by rw [htail], .inl ⟨rfl, by rw [hh]; nofun⟩⟩
  · cases (onCmd_of_faulted (s := { s with host := rest }) w hfaulted).symm.trans he
    exact .inr ⟨s.reads, by rw [hh]; rfl, .inl ⟨rfl, by rw [hh]; nofun⟩⟩
  · exact .inr ⟨s.reads, by rw [hh]; rfl, .inl ⟨rfl, by rw [hh]; nofun⟩⟩
  · exact .inr ⟨_, by rw [hh]; rfl, .inr ⟨rest, r, hh, by rw [readReg_host]⟩⟩
  · exact .inl ⟨rest, hh⟩

/-! ### Which fault is raised -/

/-- A command the table names no fault for is accepted (R198). -/
theorem accepted_of_faultOf {i : Instr} {s t : State} (h : faultOf i s = none) (he : exec i s = .next t) :
    Accepted i s t := by
  cases exec_executed he with
  | fault _ hf => cases hf.symm.trans h
  | accept _ ha => exact ha

/-- Settles O33: a word in no row is rejected at decoding, and a command raises the fault of the table or is accepted. -/
theorem firstApplicableFaultIsRaised : Obligations.FirstApplicableFaultIsRaised := by
  refine ⟨fun s w rest hready hhost hrow => ?_, fun i s => ⟨fun code => exec_of_faultOf, fun hnone => ?_⟩⟩
  · obtain ⟨e, hw⟩ := decodeFirst_of_no_row hrow
    exact step_of_decodeFirst_error hready hhost hw
  · obtain ⟨t, ht⟩ := exec_next i s
    exact ⟨t, ht, (accepted_of_faultOf hnone ht).fault_record⟩

/-! ### Entering the faulted state -/

/-- A command that enters the faulted state does so by raising a fault with its first word (R191). -/
theorem exec_enters_fault {i : Instr} {s t : State} (he : exec i s = .next t) (hs : s.faulted = false)
    (ht : t.faulted = true) : ∃ code, code ≠ .none ∧ t = s.faultedBy code i.firstWord := by
  cases exec_executed he with
  | fault hcode _ => exact ⟨_, hcode, rfl⟩
  | accept _ ha =>
    obtain ⟨hkept, -⟩ := ha.fault_record
    rw [hkept, hs] at ht
    cases ht

/-- A first word that enters the faulted state is the word recorded, whether it spells a command or not (R90, R191). -/
theorem onFirstWord_enters_fault {s t : State} {w : Word} (he : onFirstWord w s = .next t) (hs : s.faulted = false)
    (ht : t.faulted = true) : ∃ code, code ≠ .none ∧ t = s.faultedBy code w := by
  obtain ⟨_, -, e⟩ | ⟨w0, -, e⟩ | ⟨i, hi, e⟩ := onFirstWord_cases w s
  · cases e.symm.trans he
    exact ⟨.illegalCommand, nofun, rfl⟩
  · cases e.symm.trans he
    cases hs.symm.trans ht
  · rw [firstWord_of_decodeFirst hi]
    exact exec_enters_fault (e.symm.trans he) hs ht

/-- Settles O34: only a CMD word can enter the faulted state, and by the invariant it is no payload word of a CALC; a
first word records itself, and CONFIG's second word the first. -/
theorem faultEntryChangesNothingElse : Obligations.FaultEntryChangesNothingElse := by
  intro s t hinv hst hs ht
  obtain ⟨-, rfl⟩ | ⟨rest, w, hh, he⟩ | ⟨rest, r, v, -, -, rfl⟩ | ⟨rest, r, -, rfl⟩ | ⟨rest, -, rfl⟩ := step_cases hst
  · cases hs.symm.trans ht
  · obtain ⟨hf, -⟩ | ⟨-, hp, e⟩ | ⟨w0, -, hp, e⟩ | ⟨rem, x, len, -, hp, -⟩ := onCmd_cases w { s with host := rest }
    · cases hs.symm.trans hf
    · obtain ⟨code, hcode, rfl⟩ := onFirstWord_enters_fault (s := { s with host := rest }) (e.symm.trans he) hs ht
      exact ⟨code, w, rest, hh, hcode, .inl ⟨hp, rfl⟩⟩
    · obtain ⟨code, hcode, rfl⟩ := exec_enters_fault (e.symm.trans he) hs ht
      exact ⟨code, w, rest, hh, hcode, .inr ⟨w0, hp, rfl⟩⟩
    · obtain ⟨hclear, -⟩ := payloadWordsNeverFault s t w rest rem x len hinv hp hh hst
      cases hclear.symm.trans ht
  · cases hs.symm.trans ht
  · cases hs.symm.trans ht
  · cases ht

end Sys2Proof.Machine

/-!
PROOFS. Reset (70_reset_and_hazards.md R231): every element of the engine at its reset value, and the reset state in the
invariant.
-/
namespace Sys2Proof.Machine

/-! ### What reset leaves in the elements that are not fields of the state -/

@[simp] theorem State.engineReset_cfg? (s : State) : s.engineReset.cfg? = none := rfl
@[simp] theorem State.engineReset_reg? (s : State) : s.engineReset.reg? = none := rfl
@[simp] theorem State.engineReset_transient? (s : State) : s.engineReset.transient? = none := rfl

/-- Every field of STATUS is 0 after reset (R231). -/
@[simp] theorem State.engineReset_status (s : State) : s.engineReset.status = 0#32 := by
  have hcode : s.engineReset.codeBits = 0#4 := by simp [State.codeBits]
  have hvc : s.engineReset.vcBit = false := by simp [State.vcBit]
  have hpend : s.engineReset.pendBit = false := by simp [State.pendBit]
  simp [State.status, Session.code, place, hcode, hvc, hpend]

/-! ### The obligations -/

/-- Settles O13: `engineReset` sets every element whatever state it starts from, and it is both what a reset step does
and, applied to the reset state, that state itself. -/
theorem resetSetsEveryElement : Obligations.ResetSetsEveryElement := by
  unfold Obligations.ResetSetsEveryElement
  intro isReset
  have hreset (s : State) : isReset s.engineReset := by
    obtain ⟨hcfg0, hcfg1⟩ := configurationReadback.1 s.engineReset s.engineReset_session
    simp [isReset, Session.code, FaultCode.code, hcfg0, hcfg1]
  exact ⟨hreset State.reset, fun _ _ hhost => ⟨_, step_reset hhost, hreset _⟩⟩

/-- Settles O38: any state meets the invariant once it is reset, and resetting the reset state gives it back. -/
theorem resetMeetsInvariant : Obligations.ResetMeetsInvariant :=
  State.inv_engineReset State.reset

end Sys2Proof.Machine

/-!
PROOFS. What a placed command, an idle engine and an access past the window do (20_memory.md R51, R52; 30_encoding.md R90;
60_exceptions.md R211), and which addresses of a platform are in a window.
-/
namespace Sys2Proof.Machine

/-! ### The step -/

/-- A placed command other than CONFIG is its first word, with no command in progress. -/
theorem placeCommand_of_whole {s : State} {w0 w1 : Word} {i : Instr} (h : decodeFirst w0 = .ok (.whole i)) :
    placeCommand s w0 w1 = { s with pend := .none, host := HostOp.cmd w0 :: s.host } := by
  simp [placeCommand, h]

/-- A placed CONFIG waits for its second word. -/
theorem placeCommand_of_configWord {s : State} {w0 w1 : Word} {c : ConfigWord} (h : decodeFirst w0 = .ok (.configWord c)) :
    placeCommand s w0 w1 = { s with pend := .cfgw1 c, host := HostOp.cmd w1 :: s.host } := by
  simp [placeCommand, h]

/-- The next step executes the command that two placed words spell, from their first word or from both (R83, R90). -/
theorem step_placeCommand {s : State} {w0 w1 : Word} {i : Instr} {rest : List Word} (hfaulted : s.faulted = false)
    (h : decode [w0, w1] = .ok (i, rest)) : step (placeCommand s w0 w1) = exec i { s with pend := .none } := by
  obtain ⟨_, heq, hw⟩ | ⟨_, c, _, heq, hw, rfl⟩ := decode_eq_ok_cases h
  · cases heq
    rw [placeCommand_of_whole hw]
    exact step_of_whole (s := { s with pend := .none, host := HostOp.cmd w0 :: s.host }) ⟨hfaulted, rfl⟩ rfl hw
  · cases heq
    rw [placeCommand_of_configWord hw]
    exact step_secondWord hfaulted rfl rfl

theorem decode_of_decodeTableWord {nbits w : Nat} {i : Instr} (h : decodeTableWord nbits w = some i) :
    ∃ rest, decode [(tableWords nbits w).1, (tableWords nbits w).2] = .ok (i, rest) := by
  unfold decodeTableWord at h
  split at h
  next j rest hdecode => cases h; exact ⟨rest, hdecode⟩
  next => cases h

/-- Settles O10: the table's bits are two words that decode, and a placed command is executed by the next step. -/
theorem placedCommandRunsNext : Obligations.PlacedCommandRunsNext := by
  intro s nbits w i hfaulted h
  obtain ⟨_, hdecode⟩ := decode_of_decodeTableWord h
  exact step_placeCommand hfaulted hdecode

/-- Settles O12: with no access to make, the next access leaves the state as it is. -/
theorem idleEngineKeepsItsState : Obligations.IdleEngineKeepsItsState := by
  intro s h
  rw [step, nextAccess, h]

/-- An offset past the window is no register, whatever the width of the access (R51, R52). -/
theorem access_of_outside {off : Nat} (size : Nat) (k : WindowReg → Host.Outcome State Fault Refusal) (h : 0x20 ≤ off) :
    access size off k = .fault .outsideWindow :=
  if_pos h

/-- Settles O18: both kinds of access go through the one rule of `access`. -/
theorem accessOutsideWindowStops : Obligations.AccessOutsideWindowStops := by
  intro s size off v rest hoff
  constructor <;> intro h <;> simp only [step, nextAccess, h, hostStep]
  · exact access_of_outside size _ hoff
  · exact access_of_outside size _ hoff

/-! ### The windows of a platform -/

/-- Each window starts a whole number of 32-byte blocks above the one before it (R52). -/
theorem crcBase_mod (k : Nat) : Config.crcBase k % 32 = 0 := by
  induction k with
  | zero => exact Nat.mul_mod_right 32 _
  | succ k ih => rw [Config.crcBase]; omega

/-- An address in none of the windows is found in none (R52). -/
theorem locate_eq_none {n addr : Nat} (h : ∀ k < n, ¬ inWindow k addr = true) : locate addr n = none := by
  induction n with
  | zero => rfl
  | succ n ih => rw [locate, if_neg (h n n.lt_succ_self), ih fun k hk => h k (Nat.lt_succ_of_lt hk)]

/-- Settles O58: the windows are aligned and apart, so each address is found in the one window that holds it. -/
theorem windowAddressesDecode : Obligations.WindowAddressesDecode := by
  refine ⟨crcBase_mod, fun _ _ _ => locate_crcBase_add, fun n addr hout => locate_eq_none fun k hk => ?_⟩
  have := hout k hk
  rw [inWindow_iff]
  omega

end Sys2Proof.Machine

/-!
PROOFS. The assembler (30_encoding.md R85, R86): the words of a command as numbers, a number in its field, and the words of
every line.
-/
namespace Sys2Proof

/-! ### The two words of a CONFIG -/

theorem place_ofBool (lo : Nat) (b : Bool) : place lo (BitVec.ofBool b) = if b then 1#32 <<< lo else 0#32 := by
  cases b
  · exact BitVec.zero_shiftLeft lo
  · rfl

theorem Width.wsel_eq_decide (wd : Width) : wd.wsel = decide (wd = .w16) := by cases wd <;> rfl

/-- The flags of a CONFIG's first word are one bit each, above POLY (R76). -/
theorem ConfigWord.toWord_eq (w0 : ConfigWord) :
    w0.toWord = 0x10000000#32 ||| (if w0.refout then 0x00040000#32 else 0#32) |||
      (if w0.refin then 0x00020000#32 else 0#32) ||| (if w0.width = .w16 then 0x00010000#32 else 0#32) |||
      w0.poly.setWidth 32 := by
  have hcode : place 28 Opcode.config.code = 0x10000000#32 := rfl
  simp [ConfigWord.toWord, hcode, place_zero, place_ofBool, Width.wsel_eq_decide]

/-- CONFIG's second word as one number: XOROUT stays below 2^16, so INIT counts 2^16 times (R76). -/
theorem secondWord_eq_ofNat (ini xo : Half) :
    place 16 ini ||| place 0 xo = BitVec.ofNat 32 (ini.toNat * 2 ^ 16 + xo.toNat) := by
  have hor := Nat.shiftLeft_add_eq_or_of_lt xo.isLt ini.toNat
  rw [Nat.shiftLeft_eq] at hor
  apply BitVec.eq_of_toNat_eq
  simp [place, hor, Nat.shiftLeft_eq]

end Sys2Proof

namespace Sys2Proof.Machine

/-! ### A number in its field -/

theorem asmField_of_lt {n v : Nat} (h : v < 2 ^ n) : asmField n v = some (BitVec.ofNat n v) := if_pos h

theorem asmField_of_not_lt {n v : Nat} (h : ¬ v < 2 ^ n) : asmField n v = none := if_neg h

/-- A line with one numeric operand: where the words `f` of the operand field hold it zero-extended (R78), they are `g` of
the number itself, and a number past the field is an assembly error (R85). -/
theorem asmField_map {n v : Nat} {f : BitVec n → List Word} {g : Word → List Word} (hn : n ≤ 32)
    (hf : ∀ d, f d = g (d.setWidth 32)) :
    (asmField n v).map f = if v ≤ 2 ^ n - 1 then some (g (BitVec.ofNat 32 v)) else none := by
  have hle : v ≤ 2 ^ n - 1 ↔ v < 2 ^ n := Nat.le_sub_one_iff_lt n.two_pow_pos
  by_cases h : v < 2 ^ n
  · rw [if_pos (hle.mpr h), asmField_of_lt h, Option.map_some, hf, BitVec.setWidth_ofNat_of_le_of_lt hn h]
  · rw [if_neg (mt hle.mp h), asmField_of_not_lt h, Option.map_none]

/-- A line goes on with an operand that fits its field (R85). -/
theorem asmField_bind {α : Type} (n v : Nat) (k : BitVec n → Option α) :
    asmField n v >>= k = if v < 2 ^ n then k (BitVec.ofNat n v) else none := by
  by_cases h : v < 2 ^ n
  · rw [if_pos h, asmField_of_lt h]
    rfl
  · rw [if_neg h, asmField_of_not_lt h]
    rfl

/-- A CONFIG line needs each of its three numbers to fit 16 bits (R85). -/
theorem assemble_config (wd : Width) (p n x : Nat) (refin refout : Bool) :
    assemble (.config wd p n x refin refout) =
      if p < 2 ^ 16 ∧ n < 2 ^ 16 ∧ x < 2 ^ 16 then
        some (encode (.config ⟨refout, refin, wd, BitVec.ofNat 16 p⟩ (BitVec.ofNat 16 n) (BitVec.ofNat 16 x)))
      else none := by
  simp only [assemble, asmField_bind, ite_and]
  rfl

/-- The words of a CONFIG line whose numbers fit, as numbers (R76, R85). -/
theorem encode_config_ofNat (wd : Width) {p n x : Nat} (refin refout : Bool) (hp : p < 2 ^ 16) (hn : n < 2 ^ 16)
    (hx : x < 2 ^ 16) :
    encode (.config ⟨refout, refin, wd, BitVec.ofNat 16 p⟩ (BitVec.ofNat 16 n) (BitVec.ofNat 16 x)) =
      [0x10000000#32 ||| (if refout then 0x00040000#32 else 0#32) ||| (if refin then 0x00020000#32 else 0#32) |||
          (if wd = .w16 then 0x00010000#32 else 0#32) ||| BitVec.ofNat 32 p,
        BitVec.ofNat 32 (n * 2 ^ 16 + x)] := by
  rw [encode, Instr.firstWord, Instr.laterWords, ConfigWord.toWord_eq, secondWord_eq_ofNat, BitVec.toNat_ofNat,
    BitVec.toNat_ofNat, Nat.mod_eq_of_lt hn, Nat.mod_eq_of_lt hx, BitVec.setWidth_ofNat_of_le_of_lt (by decide) hp]

/-! ### The words of the other lines -/

theorem encode_pushbit (d : Byte) : encode (.pushbit d) = [0x30000000#32 ||| d.setWidth 32] :=
  congrArg (fun w => [w]) (firstWord_pushbit d)

theorem encode_wrbyte (d : Byte) : encode (.wrbyte d) = [0x40000000#32 ||| d.setWidth 32] :=
  congrArg (fun w => [w]) (firstWord_wrbyte d)

theorem encode_ldreg (v : Half) : encode (.ldreg v) = [0x80000000#32 ||| v.setWidth 32] :=
  congrArg (fun w => [w]) (firstWord_ldreg v)

theorem encode_calculate (len : Len) : encode (.calculate len) = [0x90000000#32 ||| len.setWidth 32] :=
  congrArg (fun w => [w]) (firstWord_calculate len)

/-- A CALC line is its first word and the payload given (R85, R86). -/
theorem asmField_map_calculate (len : Nat) (payload : List Word) :
    ((asmField 28 len).map fun n => encode (.calculate n) ++ payload) =
      if len ≤ 2 ^ 28 - 1 then some ((0x90000000#32 ||| BitVec.ofNat 32 len) :: payload) else none :=
  asmField_map (g := fun w => (0x90000000#32 ||| w) :: payload) (by decide) fun n =>
    congrArg (· ++ payload) (encode_calculate n)

/-- One WRBYTE word per byte (R86). -/
theorem writeWords_eq_map (bytes : List Byte) : writeWords bytes = bytes.map fun b => 0x40000000#32 ||| b.setWidth 32 := by
  simp only [writeWords, encode_wrbyte, List.map_eq_flatMap]

/-- One PUSHBIT word per bit (R86). -/
theorem pushWords_eq_map (bits : List Bool) :
    pushWords bits = bits.map fun b => 0x30000000#32 ||| (if b then 1#32 else 0#32) := by
  have hbit (b : Bool) : encode (.pushbit (if b then 1#8 else 0#8)) = [0x30000000#32 ||| (if b then 1#32 else 0#32)] := by
    rw [encode_pushbit]
    cases b <;> rfl
  simp only [pushWords, hbit, List.map_eq_flatMap]

/-- Settles O6: a line of a command is its encoding, once its numbers fit their fields, and a pseudo-instruction is the
commands of its row. -/
theorem assemblerEncodesTheTable : Obligations.AssemblerEncodesTheTable := by
  refine ⟨fun wd p n x refin refout => ?_, rfl, fun b => ?_, fun b => ?_, rfl, rfl, rfl, fun v => ?_,
    asmField_map_calculate, rfl, rfl, rfl, rfl, rfl, rfl, rfl, fun bytes => congrArg some (writeWords_eq_map bytes),
    fun d => congrArg some (pushWords_eq_map (byteBits d)), fun d => congrArg some (pushWords_eq_map (byteBits d).reverse),
    fun c => congrArg some (writeWords_eq_map [c]), fun c => congrArg some (writeWords_eq_map [_, _]),
    fun bytes => asmField_map_calculate bytes.length (packWords bytes)⟩
  · rw [assemble_config]
    exact if_ctx_congr Iff.rfl (fun ⟨hp, hn, hx⟩ => congrArg some (encode_config_ofNat wd refin refout hp hn hx)) fun _ => rfl
  · exact asmField_map (g := fun w => [0x30000000#32 ||| w]) (by decide) encode_pushbit
  · exact asmField_map (g := fun w => [0x40000000#32 ||| w]) (by decide) encode_wrbyte
  · exact asmField_map (g := fun w => [0x80000000#32 ||| w]) (by decide) encode_ldreg

end Sys2Proof.Machine
